-- ==== Sys2Proof/Word.lean ====
section
/-! DEFINITION. The word types, the two channel numbers, and a pair of values with one component per
channel (00_scope.md R2, R11). -/

namespace Sys2Proof

/-- A command word (30_encoding.md R90). -/
abbrev Word := BitVec 32

/-- A data byte, a device register address (00_scope.md R9). -/
abbrev Byte := BitVec 8

/-- The two channels (00_scope.md R2). -/
inductive Chan where
  | ch0
  | ch1
  deriving DecidableEq, Repr, Inhabited

/-- The channel's number as the CH bit carries it (30_encoding.md R91). -/
def Chan.bit : Chan → BitVec 1
  | .ch0 => 0
  | .ch1 => 1

/-- The channel a CH bit selects: `c = word[26]` (30_encoding.md R92). -/
def Chan.ofBit (b : BitVec 1) : Chan :=
  if b = 0 then .ch0 else .ch1

/-- One value per channel: the spec's `x[c]` (00_scope.md R12). -/
structure PerChan (α : Type) where
  ch0 : α
  ch1 : α
  deriving DecidableEq, Repr

/-- Reads `x[c]`. -/
def PerChan.get {α : Type} (p : PerChan α) : Chan → α
  | .ch0 => p.ch0
  | .ch1 => p.ch1

/-- `x[c] <- a`. -/
def PerChan.set {α : Type} (p : PerChan α) (c : Chan) (a : α) : PerChan α :=
  match c with
  | .ch0 => { p with ch0 := a }
  | .ch1 => { p with ch1 := a }

end Sys2Proof
end

