-- ==== Sys2Proof/Syntax.lean ====
section
/-! DEFINITION. The command set: one constructor per row of spec/opcode_table.json (30_encoding.md R94).
Every operand has exactly the width of its field (R91, R92), so an ill-formed command cannot be written
down here; the assembler form with unbounded operands, which can be ill-formed, is in WellFormed.lean. -/

namespace Sys2Proof

/-- A command of the block. -/
inductive Instr where
  /-- BSTART (40_bit_engine.md R140). -/
  | bstart (c : Chan)
  /-- BSTOP (R141). -/
  | bstop (c : Chan)
  /-- BWRITE (R142): byte v = IMM[7:0]. -/
  | bwrite (c : Chan) (v : Byte)
  /-- BREAD (R143): send-ACK bit a = IMM[0]. -/
  | bread (c : Chan) (a : Bool)
  /-- BRECOVER (R144). -/
  | brecover (c : Chan)
  /-- BREADY (R145). -/
  | bready (c : Chan)
  /-- TREQWR (41_transaction_engine.md R166): width code w, register reg, value. -/
  | treqwr (c : Chan) (w : BitVec 2) (reg : Byte) (value : BitVec 16)
  /-- TREQRD (R167): width code w, register reg. -/
  | treqrd (c : Chan) (w : BitVec 2) (reg : Byte)
  /-- TTICK (R172). -/
  | ttick (c : Chan)
  /-- TVALUE (R176). -/
  | tvalue (c : Chan)
  /-- TACK (R177). -/
  | tack (c : Chan)
  /-- TERROR (R178). -/
  | terror (c : Chan)
  /-- TRECOVER (R181). -/
  | trecover (c : Chan)
  /-- TTIMINGS (R179). -/
  | ttimings (c : Chan)
  /-- TRSTTIM (R180). -/
  | trsttim (c : Chan)
  /-- SSETOK (42_acquisition_sequencer.md R243). -/
  | ssetok
  /-- STICK (R220). -/
  | stick
  /-- SRDPRES (R231). -/
  | srdpres (c : Chan)
  /-- SRDSEC (R232). -/
  | srdsec (c : Chan)
  /-- SISERR (R233). -/
  | siserr
  /-- STIMINGS (R234). -/
  | stimings
  /-- SSTATS (R235). -/
  | sstats
  /-- SDUR (R236). -/
  | sdur
  /-- SSETUP (R240). -/
  | ssetup
  deriving DecidableEq, Repr

end Sys2Proof
end

