-- ==== Sys2Proof/WellFormed.lean ====
section
/-! DEFINITION. The assembler form of a command (30_encoding.md R108), whose operands are plain numbers as
written in a program, and the check that each fits its field (R91, R92). `Instr` itself has exact operand
types; Machine/Assembler.lean turns a well-formed assembler command into an `Instr`. -/

namespace Sys2Proof

/-- A line of assembler: the mnemonic and its operands in the order of R108 (`treqwr c, reg, value,
width`; the width is any decimal number). -/
inductive AsmCommand where
  | bstart (c : Nat)
  | bstop (c : Nat)
  | bwrite (c byte : Nat)
  | bread (c ack : Nat)
  | brecover (c : Nat)
  | bready (c : Nat)
  | treqwr (c reg value width : Nat)
  | treqrd (c reg width : Nat)
  | ttick (c : Nat)
  | tvalue (c : Nat)
  | tack (c : Nat)
  | terror (c : Nat)
  | trecover (c : Nat)
  | ttimings (c : Nat)
  | trsttim (c : Nat)
  | ssetok
  | stick
  | srdpres (c : Nat)
  | srdsec (c : Nat)
  | siserr
  | stimings
  | sstats
  | sdur
  | ssetup
  deriving DecidableEq, Repr

/-- `c` is the channel 0 or 1. -/
def channelOk (c : Nat) : Bool := c < 2

/-- `reg` and `byte` are bytes. -/
def byteOk (v : Nat) : Bool := v < 256

/-- `value` is a 16-bit number. -/
def valueOk (v : Nat) : Bool := v < 65536

/-- `ack` is 0 or 1. -/
def ackOk (a : Nat) : Bool := a < 2

/-- Every operand fits its field. A width is never ill-formed: any width other than 8, 16 and 24 assembles
to W = 0b11 (R93, R108). -/
def AsmCommand.wf : AsmCommand → Bool
  | .bstart c => channelOk c
  | .bstop c => channelOk c
  | .bwrite c byte => channelOk c && byteOk byte
  | .bread c ack => channelOk c && ackOk ack
  | .brecover c => channelOk c
  | .bready c => channelOk c
  | .treqwr c reg value _ => channelOk c && byteOk reg && valueOk value
  | .treqrd c reg _ => channelOk c && byteOk reg
  | .ttick c => channelOk c
  | .tvalue c => channelOk c
  | .tack c => channelOk c
  | .terror c => channelOk c
  | .trecover c => channelOk c
  | .ttimings c => channelOk c
  | .trsttim c => channelOk c
  | .ssetok => true
  | .stick => true
  | .srdpres c => channelOk c
  | .srdsec c => channelOk c
  | .siserr => true
  | .stimings => true
  | .sstats => true
  | .sdur => true
  | .ssetup => true

end Sys2Proof
end

