-- ==== Sys2Proof/Decode.lean ====
section
/-! DEFINITION. The decoder, total on every 32-bit word (30_encoding.md R91 to R96), and after it the
encoder, written from the same field layout. -/

namespace Sys2Proof

/-! ## Fields of a command word (R91) -/

/-- OP = word[31:27]. -/
def opField (w : Word) : BitVec 5 := w.extractLsb' 27 5

/-- CH = word[26]. -/
def chField (w : Word) : BitVec 1 := w.extractLsb' 26 1

/-- W = word[25:24]. -/
def widthField (w : Word) : BitVec 2 := w.extractLsb' 24 2

/-- REG = word[23:16]. -/
def regField (w : Word) : Byte := w.extractLsb' 16 8

/-- IMM = word[15:0]. -/
def immField (w : Word) : BitVec 16 := w.extractLsb' 0 16

/-! ## The opcode map (R94) -/

/-- CH = bit 26. -/
def chBits : Word := 0x04000000

/-- W = bits 25:24. -/
def widthBits : Word := 0x03000000

/-- REG = bits 23:16. -/
def regBits : Word := 0x00FF0000

/-- IMM = bits 15:0. -/
def immBits : Word := 0x0000FFFF

/-- IMM[7:0]. -/
def imm8Bits : Word := 0x000000FF

/-- IMM[0]. -/
def imm1Bits : Word := 0x00000001

/-- `row.freebits` of R96 for the row of R94 with this OP; `none` where no row has it (0x00, 0x07 and 0x11
to 0x16, R95). -/
def freeBits (op : BitVec 5) : Option Word :=
  match op.toNat with
  | 0x01 => some chBits
  | 0x02 => some chBits
  | 0x03 => some (chBits ||| imm8Bits)
  | 0x04 => some (chBits ||| imm1Bits)
  | 0x05 => some chBits
  | 0x06 => some chBits
  | 0x08 => some (chBits ||| widthBits ||| regBits ||| immBits)
  | 0x09 => some (chBits ||| widthBits ||| regBits)
  | 0x0A => some chBits
  | 0x0B => some chBits
  | 0x0C => some chBits
  | 0x0D => some chBits
  | 0x0E => some chBits
  | 0x0F => some chBits
  | 0x10 => some chBits
  | 0x17 => some 0
  | 0x18 => some 0
  | 0x19 => some chBits
  | 0x1A => some chBits
  | 0x1B => some 0
  | 0x1C => some 0
  | 0x1D => some 0
  | 0x1E => some 0
  | 0x1F => some 0
  | _ => none

/-- The command of the row with this OP, its operands taken from the fields the row names (R92, R94). -/
def commandOf (op : BitVec 5) (ch : BitVec 1) (w : BitVec 2) (reg : Byte) (imm : BitVec 16) : Option Instr :=
  let c := Chan.ofBit ch
  match op.toNat with
  | 0x01 => some (.bstart c)
  | 0x02 => some (.bstop c)
  | 0x03 => some (.bwrite c (imm.extractLsb' 0 8))
  | 0x04 => some (.bread c (imm.getLsbD 0))
  | 0x05 => some (.brecover c)
  | 0x06 => some (.bready c)
  | 0x08 => some (.treqwr c w reg imm)
  | 0x09 => some (.treqrd c w reg)
  | 0x0A => some (.ttick c)
  | 0x0B => some (.tvalue c)
  | 0x0C => some (.tack c)
  | 0x0D => some (.terror c)
  | 0x0E => some (.trecover c)
  | 0x0F => some (.ttimings c)
  | 0x10 => some (.trsttim c)
  | 0x17 => some .ssetok
  | 0x18 => some .stick
  | 0x19 => some (.srdpres c)
  | 0x1A => some (.srdsec c)
  | 0x1B => some .siserr
  | 0x1C => some .stimings
  | 0x1D => some .sstats
  | 0x1E => some .sdur
  | 0x1F => some .ssetup
  | _ => none

/-- R96: `none` is the illegal word of R95, for which the machine raises Fault(IllegalCommand). -/
def decode (w : Word) : Option Instr :=
  match freeBits (opField w) with
  | none => none
  | some fb =>
    if w &&& ~~~fb &&& 0x07FFFFFF = 0 then
      commandOf (opField w) (chField w) (widthField w) (regField w) (immField w)
    else none

/-- The decoder on a word as spec/opcode_table.json numbers it. A command is one 32-bit word (R90), so the
bits above `nbits` are 0, and a length over 32 is no command. -/
def decodeTableWord (nbits w : Nat) : Option Instr :=
  if nbits ≤ 32 then decode (BitVec.ofNat 32 (w % 2 ^ nbits)) else none

/-- The rows of spec/opcode_table.json as (match, mask): a word is a row's command exactly when
`word & mask = match` (R96). The decoder does not read this table; it is what claims hold it against. -/
def opcodeRows : List (Word × Word) :=
  [(0x08000000, 0xFBFFFFFF),
   (0x10000000, 0xFBFFFFFF),
   (0x18000000, 0xFBFFFF00),
   (0x20000000, 0xFBFFFFFE),
   (0x28000000, 0xFBFFFFFF),
   (0x30000000, 0xFBFFFFFF),
   (0x40000000, 0xF8000000),
   (0x48000000, 0xF800FFFF),
   (0x50000000, 0xFBFFFFFF),
   (0x58000000, 0xFBFFFFFF),
   (0x60000000, 0xFBFFFFFF),
   (0x68000000, 0xFBFFFFFF),
   (0x70000000, 0xFBFFFFFF),
   (0x78000000, 0xFBFFFFFF),
   (0x80000000, 0xFBFFFFFF),
   (0xB8000000, 0xFFFFFFFF),
   (0xC0000000, 0xFFFFFFFF),
   (0xC8000000, 0xFBFFFFFF),
   (0xD0000000, 0xFBFFFFFF),
   (0xD8000000, 0xFFFFFFFF),
   (0xE0000000, 0xFFFFFFFF),
   (0xE8000000, 0xFFFFFFFF),
   (0xF0000000, 0xFFFFFFFF),
   (0xF8000000, 0xFFFFFFFF)]

/-! ## The encoder -/

/-- `OP<<27 | CH<<26 | W<<24 | REG<<16 | IMM` (R91). -/
def commandWord (op : BitVec 5) (ch : BitVec 1) (w : BitVec 2) (reg : Byte) (imm : BitVec 16) : Word :=
  op ++ ch ++ w ++ reg ++ imm

/-- A command that uses CH only. -/
def channelWord (op : BitVec 5) (c : Chan) : Word := commandWord op c.bit 0 0 0

/-- A command that uses no field. -/
def bareWord (op : BitVec 5) : Word := commandWord op 0 0 0 0

/-- The command word of a command, unused fields 0 (R92, R94). -/
def encode : Instr → Word
  | .bstart c => channelWord 0x01 c
  | .bstop c => channelWord 0x02 c
  | .bwrite c v => commandWord 0x03 c.bit 0 0 ((0 : BitVec 8) ++ v)
  | .bread c a => commandWord 0x04 c.bit 0 0 ((0 : BitVec 15) ++ BitVec.ofBool a)
  | .brecover c => channelWord 0x05 c
  | .bready c => channelWord 0x06 c
  | .treqwr c w reg value => commandWord 0x08 c.bit w reg value
  | .treqrd c w reg => commandWord 0x09 c.bit w reg 0
  | .ttick c => channelWord 0x0A c
  | .tvalue c => channelWord 0x0B c
  | .tack c => channelWord 0x0C c
  | .terror c => channelWord 0x0D c
  | .trecover c => channelWord 0x0E c
  | .ttimings c => channelWord 0x0F c
  | .trsttim c => channelWord 0x10 c
  | .ssetok => bareWord 0x17
  | .stick => bareWord 0x18
  | .srdpres c => channelWord 0x19 c
  | .srdsec c => channelWord 0x1A c
  | .siserr => bareWord 0x1B
  | .stimings => bareWord 0x1C
  | .sstats => bareWord 0x1D
  | .sdur => bareWord 0x1E
  | .ssetup => bareWord 0x1F

end Sys2Proof
end

