-- ==== Sys2Proof/Enums.lean ====
section
/-! DEFINITION. The enumerations of the spec: line states, byte operations, transaction kinds and
states, script positions (10_state.md R21, R23, R30, R38; 30_encoding.md R104). Their numeric codes and
names are in Machine/Operands.lean. -/

namespace Sys2Proof

/-- The two lines of a channel (40_bit_engine.md R130). -/
inductive Line where
  | sda
  | scl
  deriving DecidableEq, Repr

/-- How the block leaves a line: let go to the pull-up, or forced low. There is no driven-high state
(10_state.md R21). -/
inductive LineState where
  | released
  | drivenLow
  deriving DecidableEq, Repr

/-- The events of a channel's bus trace (00_scope.md R13). In `sample`, `true` is a high level. -/
inductive BusEvent where
  | driveLow (l : Line)
  | release (l : Line)
  | settle
  | sample (l : Line) (b : Bool)
  deriving DecidableEq, Repr

/-- The byte operation in progress (10_state.md R23). -/
inductive ByteMode where
  | idle
  | writing
  | reading
  deriving DecidableEq, Repr

/-- The register-write kinds (10_state.md R30). -/
inductive WKind where
  | write8
  | write16
  deriving DecidableEq, Repr

/-- The register-read kinds (10_state.md R30). -/
inductive RKind where
  | read8
  | read16
  | read24
  deriving DecidableEq, Repr

/-- A transaction kind (10_state.md R30); `isWrite` of 41_transaction_engine.md R160 is the constructor. -/
inductive Kind where
  | write (k : WKind)
  | read (k : RKind)
  deriving DecidableEq, Repr

/-- The Data states of the writes (10_state.md R30). -/
inductive WData where
  | w8d0
  | w16d0
  | w16d1
  deriving DecidableEq, Repr

/-- The Data states of the reads (10_state.md R30). -/
inductive RData where
  | r8d0
  | r16d0
  | r16d1
  | r24d0
  | r24d1
  | r24d2
  deriving DecidableEq, Repr

/-- The transaction state: Idle or one of the 35 pairs (kind, sub) of 10_state.md R30. A pair that the
spec says does not occur (a write's Restart, Data1 of an 8-bit kind, ...) cannot be written down. -/
inductive TState where
  | idle
  | start (k : Kind)
  | addr (k : Kind)
  | reg (k : Kind)
  | wdata (d : WData)
  | restart (k : RKind)
  | addr2 (k : RKind)
  | rdata (d : RData)
  | stop (k : Kind)
  deriving DecidableEq, Repr, Inhabited

/-- The script position 0..5 (10_state.md R38); the titles are those of 42_acquisition_sequencer.md
R221 to R226. -/
inductive SeqStep where
  /-- Step 0: count the attempt, read the status register. -/
  | s0
  /-- Step 1: write the status register back, masked. -/
  | s1
  /-- Step 2: arm the measurement. -/
  | s2
  /-- Step 3: poll the busy flag. -/
  | s3
  /-- Step 4: read the result. -/
  | s4
  /-- Step 5: decode. -/
  | s5
  deriving DecidableEq, Repr

/-- What a NACK on the first data byte of a Write16 does (00_scope.md R8, 92_eei_decisions.md D11). -/
inductive NackMidWrite where
  | continueOn
  | shortCircuit
  deriving DecidableEq, Repr, Inhabited

end Sys2Proof
end

