-- ==== Sys2Proof/Config.lean ====
section
/-! DEFINITION. The parameters of 00_scope.md R8 and the free values.

A parameter to which the spec gives a value is a definition with that value (93_implementation_defined.md
I12: a later correction changes the binding here and no rule). A parameter the spec leaves OPEN, and every
`draw`, oracle answer and unspecified reset value, is an OPAQUE constant: Lean can prove no value of it,
so every theorem holds whatever it is (log 3 to log 8). -/

namespace Sys2Proof.Config

/-! ## Parameters with a value (R8; log 8) -/

/-- NCH, the number of channels. -/
def numChannels : Nat := 2

/-- RECOVER_PULSES, the SCL pulses in recovery. -/
def recoverPulses : Nat := 10

/-- SETUP_TRIES, the most acquisition cycles setup runs. -/
def setupTries : Nat := 10

/-- BUSY_MASK, the busy bit on the 8-bit polled byte. -/
def busyMask : Byte := 0x08

/-- W_STATUS = 16: the status register is read at width 16. -/
def statusReadKind : Kind := .read .read16

/-- W_STATUS = 16: the status register is written back at width 16. -/
def statusWriteKind : Kind := .write .write16

/-- W_CMD = 8: the command register is written at width 8. -/
def cmdWriteKind : Kind := .write .write8

/-- W_CMD = 8: the command register is polled at width 8. -/
def cmdReadKind : Kind := .read .read8

/-- W_RESULT = 24: the result register is read at width 24. -/
def resultReadKind : Kind := .read .read24

/-! ## OPEN parameters (R8; log 7) -/

/-- DEV_ADDR[c], the 7-bit device address on channel c. -/
opaque devAddr : Chan → BitVec 7

/-- REG_STATUS, the device status register address. -/
opaque regStatus : Byte

/-- REG_CMD, the device command register address. -/
opaque regCmd : Byte

/-- REG_RESULT, the device result register address. -/
opaque regResult : Byte

/-- TRIGGER, the byte written to REG_CMD in step 2. -/
opaque trigger : Byte

/-- STATUS_MASK, the mask of the status write-back in step 1. -/
opaque statusMask : BitVec 16

/-- SETTLE_D, the settle delay. R8 says only "OPEN, a duration" and no source gives its value
(91_not_in_source.md N3): the unit, the microsecond of the timer's count, and the type, a whole number, are the
model's DESIGN CHOICE (log 7), so a delay that is no whole number of microseconds cannot be written. No rule
depends on it (93_implementation_defined.md I16); it stands here because R8 lists it (log 18). -/
opaque settleDelay : Nat

/-- TIMER_BITS - 1, so that TIMER_BITS is at least 1 as R8 says. -/
opaque timerBitsPred : Nat

/-- TIMER_BITS, the width of timer readings and durations. -/
def timerBits : Nat := timerBitsPred + 1

/-- COUNTER_BITS - 1, so that COUNTER_BITS is at least 1 as R8 says. -/
opaque counterBitsPred : Nat

/-- COUNTER_BITS, the width of the attempt and success counters. -/
def counterBits : Nat := counterBitsPred + 1

/-- The width of the bit pattern that represents a converted reading: the spec leaves the type of
`CONV[c]`'s result to the configuration (30_encoding.md R99; log 7). -/
opaque readingBits : Nat

/-- NACK_MID_WRITE (92_eei_decisions.md D11). -/
opaque nackMidWrite : NackMidWrite

/-- A timer reading or a duration. -/
abbrev TimerWord := BitVec timerBits

/-- An attempt or success counter. -/
abbrev CounterWord := BitVec counterBits

/-- A reading in engineering units, as its bit pattern. -/
abbrev Reading := BitVec readingBits

/-- CONV[c], the conversion of a signed raw reading to engineering units. -/
opaque conv : Chan → Int → Reading

/-! ## Oracles, once no answer is listed in State (00_scope.md R15; log 3, log 4) -/

/-- The level channel c's bus environment answers to its n-th free sample; `true` is high. -/
opaque freeSample : Chan → Nat → Bool

/-- The counts that pass before the n-th free timer reading. -/
opaque freeElapsed : Nat → Nat

/-! ## Draws (00_scope.md R14; log 5): the n-th draw of each type -/

/-- `draw(UInt24)` of `LastValue` (41_transaction_engine.md R163). -/
opaque drawValue : Nat → BitVec 24

/-- `draw(Reading)` of SRDPRES (42_acquisition_sequencer.md R231). -/
opaque drawReading : Nat → Reading

/-- `draw(UInt8)` of a Timing response with ok = 0. -/
opaque drawId : Nat → BitVec 8

/-- `draw(UInt(TIMER_BITS))` of a Timing response with ok = 0. -/
opaque drawDur : Nat → TimerWord

/-- `draw(string)` of a Timing response with ok = 0. -/
opaque drawName : Nat → String

/-! ## Reset values the spec leaves unspecified (10_state.md R48, 70_reset_and_hazards.md R300; log 6) -/

/-- `be[c].sh` after reset. -/
opaque resetSh : Chan → Byte

/-- `be[c].idx` after reset. -/
opaque resetIdx : Chan → Fin 9

/-- `be[c].acks` after reset. -/
opaque resetAcks : Chan → Bool

/-- `te[c].reg` after reset. -/
opaque resetReg : Chan → Byte

/-- `te[c].wval` after reset. -/
opaque resetWval : Chan → BitVec 16

/-- `te[c].acc` after reset. -/
opaque resetAcc : Chan → BitVec 24

/-- `te[c].val` after reset. -/
opaque resetVal : Chan → BitVec 24

/-- `te[c].tid` after reset. -/
opaque resetTid : Chan → TState

/-- `sq.t0` after reset. -/
opaque resetT0 : TimerWord

/-- `sq.raw[c]` after reset. -/
opaque resetRaw : Chan → BitVec 24

end Sys2Proof.Config
end

