-- ==== Sys2Proof/Machine/State.lean ====
section
/-! DEFINITION. The machine's state as plain data (10_state.md R20 to R48), its responses, its faults, and
the state after reset (70_reset_and_hazards.md R300). -/

namespace Sys2Proof.Machine

/-- The fault reasons F1 to F5 (30_encoding.md R107, 60_exceptions.md R270 to R275). A command that raises
one takes a next state with `fault` set (log 2); `step` then stops with it in every later step. All are
safe: the machine goes no further. -/
inductive Fault where
  /-- F1 (R271). Raised by the decoder, in `step`, for an illegal word. Safe. -/
  | illegalCommand
  /-- F2 (R272). Raised by BWRITE while a read is mid-byte and by BREAD while a write is. Safe. -/
  | byteOpConflict
  /-- F3 (R273). Raised by BSTART, BSTOP, BRECOVER, TRECOVER, SSETUP and an otherwise accepted request while
  a host byte is unfinished. Safe. -/
  | bitEngineBusy
  /-- F4 (R274). Raised by the host's bit-level commands but BREADY, TRECOVER and SSETUP during a
  transaction. Safe. -/
  | channelOwned
  /-- F5 (R275). Raised by SRDSEC always. Safe. -/
  | unmodelled
  deriving DecidableEq, Repr

/-- Reasons to refuse an instruction. -/
inductive Refusal where
  /-- Raised by an arm of `exec` whose instruction has no meaning yet: no arm of this model. Safe. -/
  | notModelled (mnemonic : String)
  deriving DecidableEq, Repr

/-- The typed responses (30_encoding.md R99). -/
inductive Response where
  /-- `()`. -/
  | unit
  /-- `Bool`. -/
  | bool (b : Bool)
  /-- `UInt8`. -/
  | u8 (v : BitVec 8)
  /-- `UInt24`. -/
  | u24 (v : BitVec 24)
  /-- `UInt3`. -/
  | u3 (v : BitVec 3)
  /-- `UInt(TIMER_BITS)`. -/
  | dur (v : Config.TimerWord)
  /-- `Timing`: (ok, id, dur, name). -/
  | timing (ok : Bool) (id : BitVec 8) (dur : Config.TimerWord) (name : String)
  /-- `Stats`: (error, total). -/
  | stats (error total : Config.CounterWord)
  /-- `Reading`. -/
  | reading (r : Config.Reading)
  deriving DecidableEq, Repr

/-- `ld[c]` with the channel's bus trace and its bus environment. -/
structure LineDriver where
  /-- `ld[c].sda` (10_state.md R21). -/
  sda : LineState
  /-- `ld[c].scl` (R21). -/
  scl : LineState
  /-- The bus trace, oldest event first (00_scope.md R13, R16). -/
  trace : List BusEvent
  /-- The model's own: the answers the bus environment will give to the next samples (log 3). -/
  answers : List Bool
  /-- The model's own: the samples answered by a free value so far (log 3). -/
  samples : Nat
  deriving DecidableEq, Repr

/-- `be[c]` (10_state.md R23 to R27). -/
structure BitEngine where
  /-- R23. -/
  mode : ByteMode
  /-- R24. -/
  sh : Byte
  /-- R25: 0..8; the values 9..15 of the 4-bit field, never taken, cannot be written down (log 11). -/
  idx : Fin 9
  /-- R26. -/
  ackr : Bool
  /-- R27. -/
  acks : Bool
  deriving DecidableEq, Repr

/-- `te[c]` (10_state.md R30 to R37). -/
structure TransEngine where
  /-- R30. -/
  st : TState
  /-- R31. -/
  reg : Byte
  /-- R32. -/
  wval : BitVec 16
  /-- R33. -/
  acc : BitVec 24
  /-- R34. -/
  val : BitVec 24
  /-- R34. -/
  vvalid : Bool
  /-- R35. -/
  ack : Bool
  /-- R36. -/
  err : Bool
  /-- R37. -/
  tmax : Config.TimerWord
  /-- R37: the state whose 8-bit id `tid` is (log 11). -/
  tid : TState
  /-- R37. -/
  tvalid : Bool
  deriving DecidableEq, Repr

/-- One channel: its line driver, BitEngine and TransactionEngine (00_scope.md R2). -/
structure Channel where
  ld : LineDriver
  be : BitEngine
  te : TransEngine
  deriving DecidableEq, Repr

/-- `sq` (10_state.md R38 to R44). -/
structure Sequencer where
  /-- R38. -/
  step : SeqStep
  /-- R39. -/
  poll : Bool
  /-- R40. -/
  err : Bool
  /-- R41. -/
  attempts : Config.CounterWord
  /-- R41. -/
  successes : Config.CounterWord
  /-- R42. -/
  t0 : Config.TimerWord
  /-- R42. -/
  maxdur : Config.TimerWord
  /-- R43: the 24 bits of the two's-complement reading. -/
  raw : PerChan (BitVec 24)
  /-- R43. -/
  rawvalid : PerChan Bool
  /-- R44. -/
  setupok : Bool
  /-- R44. -/
  sactive : Bool
  /-- R44: 0..10. -/
  stries : BitVec 4
  deriving DecidableEq, Repr

/-- The model's own: the external timer (00_scope.md R15; log 4). -/
structure Timer where
  /-- The underlying microsecond count at the last reading. -/
  count : Nat
  /-- The counts that will pass before each of the next readings. -/
  elapsed : List Nat
  /-- The readings answered by a free value so far. -/
  reads : Nat
  deriving DecidableEq, Repr

/-- The state of the block, with the model's own fields for its environment. -/
structure State where
  /-- The two channels. -/
  chans : PerChan Channel
  /-- The sequencer. -/
  sq : Sequencer
  /-- `fault` (10_state.md R45). -/
  fault : Option Fault
  /-- The last command's response; none before the first, while setup runs, and after a fault
  (00_scope.md R14, R16; log 10). -/
  resp : Option Response
  /-- The model's own: the command words the host has issued and the block has not run (log 1). -/
  cmds : List Word
  /-- The model's own: the timer. -/
  timer : Timer
  /-- The model's own: the draws made so far (log 5). -/
  draws : Nat
  deriving DecidableEq, Repr

/-- Channel c after reset (10_state.md R48): lines released, engines idle, flags 0, and the fields marked
unspecified at a free value (log 6). -/
def Channel.reset (c : Chan) : Channel where
  ld := { sda := .released, scl := .released, trace := [], answers := [], samples := 0 }
  be := { mode := .idle, sh := Config.resetSh c, idx := Config.resetIdx c, ackr := false,
          acks := Config.resetAcks c }
  te := { st := .idle, reg := Config.resetReg c, wval := Config.resetWval c, acc := Config.resetAcc c,
          val := Config.resetVal c, vvalid := false, ack := false, err := false, tmax := 0,
          tid := Config.resetTid c, tvalid := false }

/-- The sequencer after reset (10_state.md R48). -/
def Sequencer.reset : Sequencer where
  step := .s0
  poll := false
  err := false
  attempts := 0
  successes := 0
  t0 := Config.resetT0
  maxdur := 0
  raw := { ch0 := Config.resetRaw .ch0, ch1 := Config.resetRaw .ch1 }
  rawvalid := { ch0 := false, ch1 := false }
  setupok := false
  sactive := false
  stries := 0

/-- The machine right after reset (70_reset_and_hazards.md R300): no fault, empty traces, no command issued
yet (R301). -/
def State.reset : State where
  chans := { ch0 := Channel.reset .ch0, ch1 := Channel.reset .ch1 }
  sq := Sequencer.reset
  fault := none
  resp := none
  cmds := []
  timer := { count := 0, elapsed := [], reads := 0 }
  draws := 0

end Sys2Proof.Machine
end

