-- ==== Sys2Proof/Machine/Operands.lean ====
section
/-! DEFINITION. What the commands' operands and the enumerations stand for: codes, state ids and names
(30_encoding.md R104 to R107), width codes (R93), address and data bytes on the wire (R100,
41_transaction_engine.md R160, R161), the read ACK convention (R162), and the sign extension (00_scope.md
R11). -/

namespace Sys2Proof.Machine

/-! ## Enumeration codes (R104) -/

/-- `be.mode`. -/
def byteModeCode : ByteMode → BitVec 2
  | .idle => 0
  | .writing => 1
  | .reading => 2

/-- A line's state: 0 Released, 1 Driven-low (10_state.md R21). -/
def lineStateCode : LineState → BitVec 1
  | .released => 0
  | .drivenLow => 1

/-- Transaction kind. -/
def kindCode : Kind → BitVec 4
  | .write .write8 => 1
  | .write .write16 => 2
  | .read .read8 => 3
  | .read .read16 => 4
  | .read .read24 => 5

/-- `sq.step` as the number 0..5 (10_state.md R38). -/
def seqStepCode : SeqStep → BitVec 3
  | .s0 => 0
  | .s1 => 1
  | .s2 => 2
  | .s3 => 3
  | .s4 => 4
  | .s5 => 5

/-- F1 to F5 (R107). -/
def faultCode : Fault → Nat
  | .illegalCommand => 1
  | .byteOpConflict => 2
  | .bitEngineBusy => 3
  | .channelOwned => 4
  | .unmodelled => 5

/-! ## Kinds and Data states -/

/-- `nbytes(k)` (41_transaction_engine.md R160). -/
def nbytes : Kind → Nat
  | .write .write8 => 1
  | .write .write16 => 2
  | .read .read8 => 1
  | .read .read16 => 2
  | .read .read24 => 3

/-- The kind a write's Data state belongs to. -/
def wdataKind : WData → WKind
  | .w8d0 => .write8
  | .w16d0 => .write16
  | .w16d1 => .write16

/-- The index i of a write's Data_i. -/
def wdataIndex : WData → Nat
  | .w8d0 => 0
  | .w16d0 => 0
  | .w16d1 => 1

/-- The kind a read's Data state belongs to. -/
def rdataKind : RData → RKind
  | .r8d0 => .read8
  | .r16d0 => .read16
  | .r16d1 => .read16
  | .r24d0 => .read24
  | .r24d1 => .read24
  | .r24d2 => .read24

/-- The index i of a read's Data_i. -/
def rdataIndex : RData → Nat
  | .r8d0 => 0
  | .r16d0 => 0
  | .r16d1 => 1
  | .r24d0 => 0
  | .r24d1 => 1
  | .r24d2 => 2

/-- `(k, Data0)` of a write. -/
def wdataFirst : WKind → WData
  | .write8 => .w8d0
  | .write16 => .w16d0

/-- `(k, Data0)` of a read. -/
def rdataFirst : RKind → RData
  | .read8 => .r8d0
  | .read16 => .r16d0
  | .read24 => .r24d0

/-! ## The state sequences (41_transaction_engine.md R171) -/

/-- The state after (k, Reg) with ACK: Data0 of a write, Restart of a read. -/
def afterReg : Kind → TState
  | .write k => .wdata (wdataFirst k)
  | .read k => .restart k

/-- The state after a write's Data state with ACK. -/
def afterWdata : WData → TState
  | .w8d0 => .stop (.write .write8)
  | .w16d0 => .wdata .w16d1
  | .w16d1 => .stop (.write .write16)

/-- The state after a read's Data state. -/
def afterRdata : RData → TState
  | .r8d0 => .stop (.read .read8)
  | .r16d0 => .rdata .r16d1
  | .r16d1 => .stop (.read .read16)
  | .r24d0 => .rdata .r24d1
  | .r24d1 => .rdata .r24d2
  | .r24d2 => .stop (.read .read24)

/-- `i = n-1`: the last data byte of the read. -/
def lastByte (d : RData) : Bool := rdataIndex d + 1 = nbytes (.read (rdataKind d))

/-! ## State ids and names (R105, R106) -/

/-- The kind and sub-state codes of a state (R104). -/
def tstateCodes : TState → BitVec 4 × BitVec 4
  | .idle => (0, 0)
  | .start k => (kindCode k, 0)
  | .addr k => (kindCode k, 1)
  | .reg k => (kindCode k, 2)
  | .wdata d => (kindCode (.write (wdataKind d)), 3 + BitVec.ofNat 4 (wdataIndex d))
  | .restart k => (kindCode (.read k), 6)
  | .addr2 k => (kindCode (.read k), 7)
  | .rdata d => (kindCode (.read (rdataKind d)), 3 + BitVec.ofNat 4 (rdataIndex d))
  | .stop k => (kindCode k, 8)

/-- The 8-bit state id: `kind<<4 | sub` (R105). -/
def stateId (st : TState) : BitVec 8 := (tstateCodes st).1 ++ (tstateCodes st).2

/-- The kind's name. -/
def kindName : Kind → String
  | .write .write8 => "Write8"
  | .write .write16 => "Write16"
  | .read .read8 => "Read8"
  | .read .read16 => "Read16"
  | .read .read24 => "Read24"

/-- `name(id(st))` (R106): "Idle" or "<kind>.<sub>". -/
def stateName : TState → String
  | .idle => "Idle"
  | .start k => kindName k ++ ".Start"
  | .addr k => kindName k ++ ".Addr"
  | .reg k => kindName k ++ ".Reg"
  | .wdata .w8d0 => "Write8.Data0"
  | .wdata .w16d0 => "Write16.Data0"
  | .wdata .w16d1 => "Write16.Data1"
  | .restart k => kindName (.read k) ++ ".Restart"
  | .addr2 k => kindName (.read k) ++ ".Addr2"
  | .rdata .r8d0 => "Read8.Data0"
  | .rdata .r16d0 => "Read16.Data0"
  | .rdata .r16d1 => "Read16.Data1"
  | .rdata .r24d0 => "Read24.Data0"
  | .rdata .r24d1 => "Read24.Data1"
  | .rdata .r24d2 => "Read24.Data2"
  | .stop k => kindName k ++ ".Stop"

/-! ## Width codes (30_encoding.md R93, 41_transaction_engine.md R164) -/

/-- `writeKind(w)`; `none` is InvalidWidth. -/
def writeKind (w : BitVec 2) : Option Kind :=
  match w.toNat with
  | 0 => some (.write .write8)
  | 1 => some (.write .write16)
  | _ => none

/-- `readKind(w)`; `none` is InvalidWidth. -/
def readKind (w : BitVec 2) : Option Kind :=
  match w.toNat with
  | 0 => some (.read .read8)
  | 1 => some (.read .read16)
  | 2 => some (.read .read24)
  | _ => none

/-- Does the request of this kind latch the value (41_transaction_engine.md R165)? -/
def isWrite : Kind → Bool
  | .write _ => true
  | .read _ => false

/-! ## Bytes on the wire -/

/-- AW(c), the write address byte (30_encoding.md R100). -/
def addrWrite (c : Chan) : Byte := Config.devAddr c ++ (0 : BitVec 1)

/-- AR(c), the read address byte (30_encoding.md R100). -/
def addrRead (c : Chan) : Byte := Config.devAddr c ++ (1 : BitVec 1)

/-- The data byte a write's Data state sends (41_transaction_engine.md R160). -/
def writeByteOf (wval : BitVec 16) : WData → Byte
  | .w8d0 => wval.extractLsb' 0 8
  | .w16d0 => wval.extractLsb' 8 8
  | .w16d1 => wval.extractLsb' 0 8

/-- Does a NACK of this data byte stop the write? On the final byte it makes no difference; on the first
of a Write16 the OPEN parameter NACK_MID_WRITE says (41_transaction_engine.md R168, R172). -/
def stopOnNack : WData → Bool
  | .w8d0 => true
  | .w16d0 => Config.nackMidWrite = .shortCircuit
  | .w16d1 => true

/-- The send-ACK bit of a read's data byte: 1 but on the final byte (41_transaction_engine.md R162). -/
def sendAck (d : RData) : Bool := !lastByte d

/-- `((acc << 8) | b)[23:0]` (41_transaction_engine.md R170, R172). -/
def shiftIn (acc : BitVec 24) (b : Byte) : BitVec 24 := (acc <<< 8) ||| b.setWidth 24

/-- `v[0] <- b` on a byte (40_bit_engine.md R136). -/
def setBit0 (v : Byte) (b : Bool) : Byte := (v &&& 0xFE) ||| (BitVec.ofBool b).setWidth 8

/-- `sext_24(v)` (00_scope.md R11). -/
def sext24 (v : BitVec 24) : Int :=
  if v.toNat < 2 ^ 23 then (v.toNat : Int) else (v.toNat : Int) - 2 ^ 24

end Sys2Proof.Machine
end

