-- ==== Sys2Proof/Machine/Flags.lean ====
section
/-! DEFINITION. The flag computations (10_state.md R47): what an accepted request clears, what a completed
written byte and read byte set, and the timing sample. Each updates one channel's TransactionEngine
fields. -/

namespace Sys2Proof.Machine

/-- ACK is present iff SDA reads low (40_bit_engine.md R135). -/
def ackOf (sdaLevel : Bool) : Bool := !sdaLevel

/-- The fields an accepted request writes (41_transaction_engine.md R165). -/
def TransEngine.accept (t : TransEngine) (k : Kind) (reg : Byte) (value : BitVec 16) : TransEngine :=
  { t with
    reg := reg
    wval := if isWrite k then value else t.wval
    err := false
    ack := false
    vvalid := false
    st := .start k }

/-- The end of a written byte with ACK result a (41_transaction_engine.md R168 and WriteStep of R172):
`ack` takes a; a NACK sets `err` and, where it stops the transaction, leads to (k, Stop); otherwise the
state is `next`. -/
def TransEngine.byteWritten (t : TransEngine) (k : Kind) (a : Bool) (next : TState) (stopOnNack : Bool) :
    TransEngine :=
  { t with
    ack := a
    err := t.err || !a
    st := if !a && stopOnNack then .stop k else next }

/-- Did the written byte's end lead to `next`? What WriteStep of R172 returns. -/
def movedOn (a stopOnNack : Bool) : Bool := a || !stopOnNack

/-- The end of a read byte b of Data state d (41_transaction_engine.md R170 and ReadStep of R172). -/
def TransEngine.byteRead (t : TransEngine) (d : RData) (b : Byte) : TransEngine :=
  { t with
    acc := shiftIn t.acc b
    val := if lastByte d then shiftIn t.acc b else t.val
    vvalid := t.vvalid || lastByte d
    st := afterRdata d }

/-- Does a tick of this duration make a new maximum? The test is strict (41_transaction_engine.md R172,
92_eei_decisions.md D18). -/
def TransEngine.exceeds (t : TransEngine) (d : Config.TimerWord) : Bool := t.tmax < d

/-- The timing sample after a tick that ran state st and took d (41_transaction_engine.md R172). -/
def TransEngine.recordTime (t : TransEngine) (st : TState) (d : Config.TimerWord) : TransEngine :=
  { t with
    tmax := if t.exceeds d then d else t.tmax
    tid := if t.exceeds d then st else t.tid
    tvalid := t.exceeds d || t.tvalid }

/-- The timing reset (41_transaction_engine.md R180); `tid` keeps its value. -/
def TransEngine.resetTime (t : TransEngine) : TransEngine :=
  { t with tmax := 0, tvalid := false }

end Sys2Proof.Machine
end

