-- ==== Sys2Proof/Machine/Ops.lean ====
section
/-! DEFINITION. The named operations over the state: the bus primitives (00_scope.md R13), the oracles
(R15), draws, responses and faults (R14, 60_exceptions.md R270), and the host's command queue. -/

namespace Sys2Proof.Machine

/-! ## Bus primitives on one channel (00_scope.md R13) -/

/-- The state of line L. -/
def LineDriver.line (x : LineDriver) : Line → LineState
  | .sda => x.sda
  | .scl => x.scl

/-- The event that puts line L in a state. -/
def lineEvent (l : Line) : LineState → BusEvent
  | .released => .release l
  | .drivenLow => .driveLow l

/-- Puts line L in a state and appends the event, whether or not the state changes. -/
def LineDriver.put (x : LineDriver) (l : Line) (v : LineState) : LineDriver :=
  { x with
    sda := match l with
      | .sda => v
      | .scl => x.sda
    scl := match l with
      | .sda => x.scl
      | .scl => v
    trace := x.trace ++ [lineEvent l v] }

/-- `DriveLow(c, L)`. -/
def LineDriver.driveLow (x : LineDriver) (l : Line) : LineDriver := x.put l .drivenLow

/-- `Release(c, L)`. -/
def LineDriver.release (x : LineDriver) (l : Line) : LineDriver := x.put l .released

/-- `Settle(c)`: an event and nothing else (40_bit_engine.md R132). -/
def LineDriver.settle (x : LineDriver) : LineDriver :=
  { x with trace := x.trace ++ [.settle] }

/-- The level the next sample of line L reads: low if the block drives the line low (00_scope.md R15,
92_eei_decisions.md D46; log 17), else the environment's next answer, any bit (log 3). -/
def LineDriver.level (x : LineDriver) (c : Chan) (l : Line) : Bool :=
  match x.line l with
  | .drivenLow => false
  | .released => x.answers.headD (Config.freeSample c x.samples)

/-- `Sample(c, L)`: the level, and the state after. -/
def LineDriver.sample (x : LineDriver) (c : Chan) (l : Line) : Bool × LineDriver :=
  (x.level c l,
    { x with
      trace := x.trace ++ [.sample l (x.level c l)]
      answers := if x.line l = .released then x.answers.tail else x.answers
      samples := if x.line l = .released ∧ x.answers = [] then x.samples + 1 else x.samples })

/-! ## Fields of the state by channel -/

/-- Channel c. -/
def State.chan (s : State) (c : Chan) : Channel := s.chans.get c

/-- Channel c replaced. -/
def State.setChan (s : State) (c : Chan) (x : Channel) : State :=
  { s with chans := s.chans.set c x }

/-- Channel c's lines replaced, its engines kept. -/
def State.setLines (s : State) (c : Chan) (l : LineDriver) : State :=
  s.setChan c { s.chan c with ld := l }

/-! ## The timer and the draws (00_scope.md R14, R15) -/

/-- The underlying count at the next reading: it never decreases (log 4). -/
def Timer.next (t : Timer) : Nat := t.count + t.elapsed.headD (Config.freeElapsed t.reads)

/-- The timer after one reading. -/
def Timer.read (t : Timer) : Timer where
  count := t.next
  elapsed := t.elapsed.tail
  reads := if t.elapsed = [] then t.reads + 1 else t.reads

/-- What the next `Now()` returns: the low TIMER_BITS bits of the count. -/
def State.now (s : State) : Config.TimerWord := BitVec.ofNat Config.timerBits s.timer.next

/-- The state after a `Now()`. -/
def State.readTimer (s : State) : State := { s with timer := s.timer.read }

/-- The state after a draw, where one is made; the value drawn is a `Config.draw…` at `s.draws` (log 5). -/
def State.drawIf (s : State) (made : Bool) : State :=
  { s with draws := if made then s.draws + 1 else s.draws }

/-! ## Responses and faults -/

/-- `return v`: the command's response (00_scope.md R14). -/
def State.respond (s : State) (r : Response) : State := { s with resp := some r }

/-- `raise Fault(F)`: sets `fault` and ends the command with no response (60_exceptions.md R270). This is
all there is of taking an exception on this block: nothing is saved, no mode changes and no control is
transferred (R282); and there is no return from it (R283). -/
def State.raise (s : State) (f : Fault) : State := { s with fault := some f, resp := none }

/-- How a piece of pseudocode ends: with a value, or at a `raise`; the fields written so far are kept
either way (60_exceptions.md R270; log 14). -/
inductive Ran (α : Type) where
  | done (a : α) (s : State)
  | raised (f : Fault) (s : State)

/-- Runs the rest of the pseudocode, unless a fault has ended it. -/
def Ran.bind {α β : Type} (r : Ran α) (k : α → State → Ran β) : Ran β :=
  match r with
  | .done a s => k a s
  | .raised f s => .raised f s

/-- The command's outcome: its response recorded, or the faulted state (60_exceptions.md R270; log 2). -/
def Ran.outcome {α : Type} (r : Ran α) (response : α → Response) : Host.Outcome State Fault Refusal :=
  match r with
  | .done a s => .next (s.respond (response a))
  | .raised f s => .next (s.raise f)

/-- `if p: raise Fault(F)`. -/
def raiseIf (p : Bool) (f : Fault) (s : State) : Ran Unit :=
  if p then .raised f s else .done () s

/-! ## The host's command queue (log 1) -/

/-- The next word the host has issued, and the state without it. -/
def State.fetch (s : State) : Option (Word × State) :=
  match s.cmds with
  | [] => none
  | w :: rest => some (w, { s with cmds := rest })

/-- The host issues a word to be run before those already waiting. -/
def State.issue (s : State) (w : Word) : State := { s with cmds := w :: s.cmds }

end Sys2Proof.Machine
end

