-- ==== Sys2Proof/Machine/BitEngine.lean ====
section
/-! DEFINITION. The BitEngine: its five internal operations (40_bit_engine.md R133 to R137), the ownership
guard (R139) and the six commands BSTART, BSTOP, BWRITE, BREAD, BRECOVER, BREADY (R140 to R145). -/

namespace Sys2Proof.Machine

/-! ## Conditions and recovery: lines only -/

/-- `Start(c)` (R133). -/
def LineDriver.startCond (x : LineDriver) : LineDriver :=
  let x := x.release .scl
  let x := x.release .sda
  let x := x.settle
  let x := x.driveLow .sda
  let x := x.settle
  x.driveLow .scl

/-- `Stop(c)` (R134). -/
def LineDriver.stopCond (x : LineDriver) : LineDriver :=
  let x := x.driveLow .sda
  let x := x.settle
  let x := x.release .scl
  let x := x.settle
  let x := x.release .sda
  x.settle

/-- One recovery pulse of SCL (R137). -/
def LineDriver.pulse (x : LineDriver) : LineDriver :=
  let x := x.driveLow .scl
  let x := x.settle
  let x := x.release .scl
  x.settle

/-- `repeat n times` of a pulse (R137). -/
def LineDriver.pulses : Nat → LineDriver → LineDriver
  | 0, x => x
  | n + 1, x => LineDriver.pulses n x.pulse

/-- The verification at the end of `Recover(c)`: SCL first; SDA only if SCL is high (R137). -/
def LineDriver.verifyFree (x : LineDriver) (c : Chan) : Bool × LineDriver :=
  match x.sample c .scl with
  | (false, x) => (false, x)
  | (true, x) => x.sample c .sda

/-- Both lines released and a settle, at the start of `Recover(c)` (R137). -/
def LineDriver.letGo (x : LineDriver) : LineDriver :=
  let x := x.release .scl
  let x := x.release .sda
  x.settle

/-- `Recover(c)` (R137): 1 where both lines read high in the end. -/
def LineDriver.recover (x : LineDriver) (c : Chan) : Bool × LineDriver :=
  match x.letGo.sample c .scl with
  | (false, x) => (false, x)
  | (true, x) =>
    match x.sample c .sda with
    | (true, x) => (true, x)
    | (false, x) => (LineDriver.pulses Config.recoverPulses x).stopCond.verifyFree c

/-! ## Byte write (R135) -/

/-- SDA for a data bit: released for 1, driven low for 0 (30_encoding.md R101). -/
def LineDriver.putBit (x : LineDriver) (b : Bool) : LineDriver :=
  x.put .sda (if b then .released else .drivenLow)

/-- The rest of a bit-time that samples nothing: SCL high for one settle (R135, R136). -/
def LineDriver.clock (x : LineDriver) : LineDriver :=
  let x := x.settle
  let x := x.release .scl
  let x := x.settle
  x.driveLow .scl

/-- A bit-time that samples SDA while SCL is high (R135, R136). -/
def LineDriver.clockIn (x : LineDriver) (c : Chan) : Bool × LineDriver :=
  let x := x.settle
  let x := x.release .scl
  let x := x.settle
  let b := x.sample c .sda
  (b.1, b.2.driveLow .scl)

/-- Call 0: latch the byte. -/
def Channel.writeLatch (x : Channel) (v : Byte) : Channel :=
  { x with be := { x.be with sh := v, ackr := false, idx := 0, mode := .writing } }

/-- Calls 1 to 8: one data bit, most significant first. -/
def Channel.writeBit (x : Channel) : Channel :=
  { x with
    ld := (x.ld.putBit x.be.sh.msb).clock
    be := { x.be with sh := x.be.sh <<< 1, idx := x.be.idx + 1 } }

/-- Call 9: the ACK phase. -/
def Channel.writeAck (x : Channel) (c : Chan) : Channel :=
  let b := (x.ld.release .sda).clockIn c
  { x with
    ld := b.2
    be := { x.be with ackr := ackOf b.1, mode := .idle } }

/-- `WriteByte(c, v)` (R135); every call returns `be[c].ackr`. -/
def Channel.writeByte (x : Channel) (c : Chan) (v : Byte) : Except Fault Channel :=
  match x.be.mode with
  | .idle => .ok (x.writeLatch v)
  | .writing => .ok (if x.be.idx ≤ 7 then x.writeBit else x.writeAck c)
  | .reading => .error .byteOpConflict

/-! ## Byte read (R136) -/

/-- Call 0: release SDA, clear the accumulator, latch the ACK to send. -/
def Channel.readLatch (x : Channel) (a : Bool) : Channel :=
  { x with
    ld := x.ld.release .sda
    be := { x.be with sh := 0, idx := 0, acks := a, mode := .reading } }

/-- Calls 1 to 8: one data bit, sampled into bit 0. -/
def Channel.readBit (x : Channel) (c : Chan) : Channel :=
  let b := x.ld.clockIn c
  { x with
    ld := b.2
    be := { x.be with sh := setBit0 (x.be.sh <<< 1) b.1, idx := x.be.idx + 1 } }

/-- Call 9: send the ACK (SDA low) or the NACK (SDA released). -/
def Channel.readAck (x : Channel) : Channel :=
  { x with
    ld := (x.ld.putBit (!x.be.acks)).clock
    be := { x.be with mode := .idle } }

/-- `ReadByte(c, a)` (R136); every call returns `be[c].sh`. -/
def Channel.readByte (x : Channel) (c : Chan) (a : Bool) : Except Fault Channel :=
  match x.be.mode with
  | .idle => .ok (x.readLatch a)
  | .reading => .ok (if x.be.idx ≤ 7 then x.readBit c else x.readAck)
  | .writing => .error .byteOpConflict

/-! ## Guards -/

/-- `ready(c)` (10_state.md R28). -/
def Channel.ready (x : Channel) : Bool := x.be.mode = .idle

/-- Is no transaction in progress? -/
def Channel.free (x : Channel) : Bool := x.te.st = .idle

/-- `Guard(c)` (R139): the TransactionEngine owns the channel during a transaction. -/
def guardOwner (c : Chan) (s : State) : Ran Unit := raiseIf (!(s.chan c).free) .channelOwned s

/-- `if be[c].mode != Idle: raise Fault(BitEngineBusy)` (92_eei_decisions.md D8). -/
def guardReady (c : Chan) (s : State) : Ran Unit := raiseIf (!(s.chan c).ready) .bitEngineBusy s

/-- A byte operation's result on channel c, as pseudocode of the whole block. -/
def State.putChan (s : State) (c : Chan) (r : Except Fault Channel) : Ran Unit :=
  match r with
  | .ok x => .done () (s.setChan c x)
  | .error f => .raised f s

/-- `return Recover(c)` behind both guards: what BRECOVER and TRECOVER do (R144, 41_transaction_engine.md
R181). -/
def recoverCommand (c : Chan) (s : State) : Ran Bool :=
  (guardOwner c s).bind fun _ s =>
  (guardReady c s).bind fun _ s =>
  let r := (s.chan c).ld.recover c
  .done r.1 (s.setLines c r.2)

/-! ## Commands -/

/-- BSTART (R140). -/
def execBstart (c : Chan) (s : State) : Host.Outcome State Fault Refusal :=
  ((guardOwner c s).bind fun _ s =>
   (guardReady c s).bind fun _ s =>
   .done () (s.setLines c (s.chan c).ld.startCond)).outcome fun _ => .unit

/-- BSTOP (R141). -/
def execBstop (c : Chan) (s : State) : Host.Outcome State Fault Refusal :=
  ((guardOwner c s).bind fun _ s =>
   (guardReady c s).bind fun _ s =>
   .done () (s.setLines c (s.chan c).ld.stopCond)).outcome fun _ => .unit

/-- BWRITE (R142): responds `be[c].ackr`. -/
def execBwrite (c : Chan) (v : Byte) (s : State) : Host.Outcome State Fault Refusal :=
  ((guardOwner c s).bind fun _ s =>
   (s.putChan c ((s.chan c).writeByte c v)).bind fun _ s =>
   .done (s.chan c).be.ackr s).outcome .bool

/-- BREAD (R143): responds `be[c].sh`. -/
def execBread (c : Chan) (a : Bool) (s : State) : Host.Outcome State Fault Refusal :=
  ((guardOwner c s).bind fun _ s =>
   (s.putChan c ((s.chan c).readByte c a)).bind fun _ s =>
   .done (s.chan c).be.sh s).outcome .u8

/-- BRECOVER (R144). -/
def execBrecover (c : Chan) (s : State) : Host.Outcome State Fault Refusal :=
  (recoverCommand c s).outcome .bool

/-- BREADY (R145): no guard. -/
def execBready (c : Chan) (s : State) : Host.Outcome State Fault Refusal :=
  (Ran.done (s.chan c).ready s).outcome .bool

end Sys2Proof.Machine
end

