-- ==== Sys2Proof/Machine/Transaction.lean ====
section
/-! DEFINITION. The TransactionEngine: request acceptance (41_transaction_engine.md R165), the tick and its
state machine (R172), the value query (R163), and the nine commands TREQWR, TREQRD, TTICK, TVALUE, TACK,
TERROR, TTIMINGS, TRSTTIM, TRECOVER (R166, R167, R172, R176 to R181). -/

namespace Sys2Proof.Machine

/-! ## Requests -/

/-- What request acceptance finds, in the order of R165 and 60_exceptions.md R280. -/
inductive RequestVerdict where
  | busBusy
  | invalidWidth
  | bitEngineBusy
  | accepted (k : Kind)
  deriving DecidableEq, Repr

/-- The checks of `Request(c, k, reg, value)` (R165); `none` is the kind of an unsupported width. -/
def Channel.judgeRequest (x : Channel) (k : Option Kind) : RequestVerdict :=
  if x.te.st ≠ .idle then .busBusy
  else match k with
    | none => .invalidWidth
    | some k => if x.be.mode ≠ .idle then .bitEngineBusy else .accepted k

/-- `Request(c, k, reg, value)` (R165): was it accepted? A rejected request changes no field. -/
def request (c : Chan) (k : Option Kind) (reg : Byte) (value : BitVec 16) (s : State) : Ran Bool :=
  match (s.chan c).judgeRequest k with
  | .busBusy => .done false s
  | .invalidWidth => .done false s
  | .bitEngineBusy => .raised .bitEngineBusy s
  | .accepted k =>
    .done true (s.setChan c { s.chan c with te := (s.chan c).te.accept k reg value })

/-! ## The tick (R172) -/

/-- `WriteStep(c, k, b, next, stopOnNack)`: the channel after it, and whether it moved to `next`. -/
def Channel.writeStep (x : Channel) (c : Chan) (k : Kind) (b : Byte) (next : TState) (stopOnNack : Bool) :
    Except Fault (Bool × Channel) :=
  match x.writeByte c b with
  | .error f => .error f
  | .ok y =>
    match y.be.mode with
    | .idle =>
      .ok (movedOn y.be.ackr stopOnNack, { y with te := y.te.byteWritten k y.be.ackr next stopOnNack })
    | _ => .ok (false, y)

/-- `ReadStep(c, k, i)`. -/
def Channel.readStep (x : Channel) (c : Chan) (d : RData) : Except Fault Channel :=
  match x.readByte c (sendAck d) with
  | .error f => .error f
  | .ok y =>
    match y.be.mode with
    | .idle => .ok { y with te := y.te.byteRead d y.be.sh }
    | _ => .ok y

/-- The channel of a WriteStep, its return value ignored. -/
def stepped (r : Except Fault (Bool × Channel)) : Except Fault Channel := r.map Prod.snd

/-- State Addr2 clears `acc` where its WriteStep moved on. -/
def clearAcc (r : Except Fault (Bool × Channel)) : Except Fault Channel :=
  r.map fun p => { p.2 with te := { p.2.te with acc := if p.1 then 0 else p.2.te.acc } }

/-- A condition, then the next state: the states Start, Restart and Stop. -/
def Channel.condition (x : Channel) (l : LineDriver) (next : TState) : Channel :=
  { x with ld := l, te := { x.te with st := next } }

/-- `TickBody(c, s)`. -/
def Channel.tickBody (x : Channel) (c : Chan) : Except Fault Channel :=
  match x.te.st with
  | .idle => .ok x
  | .start k => .ok (x.condition x.ld.startCond (.addr k))
  | .addr k => stepped (x.writeStep c k (addrWrite c) (.reg k) true)
  | .reg k => stepped (x.writeStep c k x.te.reg (afterReg k) true)
  | .wdata d =>
    stepped (x.writeStep c (.write (wdataKind d)) (writeByteOf x.te.wval d) (afterWdata d) (stopOnNack d))
  | .restart k => .ok (x.condition x.ld.startCond (.addr2 k))
  | .addr2 k => clearAcc (x.writeStep c (.read k) (addrRead c) (.rdata (rdataFirst k)) true)
  | .rdata d => x.readStep c d
  | .stop _ => .ok (x.condition x.ld.stopCond .idle)

/-- The timing sample of a tick on channel c that ran state st and took d. -/
def State.recordTime (s : State) (c : Chan) (st : TState) (d : Config.TimerWord) : State :=
  s.setChan c { s.chan c with te := (s.chan c).te.recordTime st d }

/-- `TTICK(c)` (R172): is a transaction still in progress? The two readings of the timer stand around the
body. -/
def tick (c : Chan) (s : State) : Ran Bool :=
  let st := (s.chan c).te.st
  let ta := s.now
  let s := s.readTimer
  (s.putChan c ((s.chan c).tickBody c)).bind fun _ s =>
  let tb := s.now
  let s := s.readTimer.recordTime c st (tb - ta)
  .done (!(s.chan c).free) s

/-! ## Queries -/

/-- `LastValue(c)` (R163): the value, or a draw. -/
def State.lastValue (s : State) (c : Chan) : BitVec 24 :=
  if (s.chan c).te.vvalid then (s.chan c).te.val else Config.drawValue s.draws

/-- The state after `LastValue(c)`: a draw is used up where one was made. -/
def State.afterLastValue (s : State) (c : Chan) : State := s.drawIf (!(s.chan c).te.vvalid)

/-- The Timing response of a channel that holds a sample (R179). -/
def TransEngine.timing (t : TransEngine) : Response :=
  .timing true (stateId t.tid) t.tmax (stateName t.tid)

/-- The Timing response where no sample exists: ok = 0 and three draws (30_encoding.md R99). -/
def State.noTiming (s : State) : Response :=
  .timing false (Config.drawId s.draws) (Config.drawDur s.draws) (Config.drawName s.draws)

/-! ## Commands -/

/-- TREQWR (R166). -/
def execTreqwr (c : Chan) (w : BitVec 2) (reg : Byte) (value : BitVec 16) (s : State) :
    Host.Outcome State Fault Refusal :=
  (request c (writeKind w) reg value s).outcome .bool

/-- TREQRD (R167). -/
def execTreqrd (c : Chan) (w : BitVec 2) (reg : Byte) (s : State) : Host.Outcome State Fault Refusal :=
  (request c (readKind w) reg 0 s).outcome .bool

/-- TTICK (R172). -/
def execTtick (c : Chan) (s : State) : Host.Outcome State Fault Refusal :=
  (tick c s).outcome .bool

/-- TVALUE (R176). -/
def execTvalue (c : Chan) (s : State) : Host.Outcome State Fault Refusal :=
  (Ran.done (s.lastValue c) (s.afterLastValue c)).outcome .u24

/-- TACK (R177). -/
def execTack (c : Chan) (s : State) : Host.Outcome State Fault Refusal :=
  (Ran.done (s.chan c).te.ack s).outcome .bool

/-- TERROR (R178). -/
def execTerror (c : Chan) (s : State) : Host.Outcome State Fault Refusal :=
  (Ran.done (s.chan c).te.err s).outcome .bool

/-- TTIMINGS (R179). -/
def execTtimings (c : Chan) (s : State) : Host.Outcome State Fault Refusal :=
  let t := (s.chan c).te
  (Ran.done (if t.tvalid then t.timing else s.noTiming) (s.drawIf (!t.tvalid))).outcome id

/-- TRSTTIM (R180). -/
def execTrsttim (c : Chan) (s : State) : Host.Outcome State Fault Refusal :=
  (Ran.done () (s.setChan c { s.chan c with te := (s.chan c).te.resetTime })).outcome fun _ => .unit

/-- TRECOVER (R181). -/
def execTrecover (c : Chan) (s : State) : Host.Outcome State Fault Refusal :=
  (recoverCommand c s).outcome .bool

end Sys2Proof.Machine
end

