-- ==== Sys2Proof/Machine/Sequencer.lean ====
section
/-! DEFINITION. The AcquisitionSequencer: the sequencer's tick and its six steps (42_acquisition_sequencer.md
R220 to R226), setup (R240 to R242), and the nine commands STICK, SRDPRES, SRDSEC, SISERR, STIMINGS,
SSTATS, SDUR, SSETUP, SSETOK. -/

namespace Sys2Proof.Machine

/-! ## Requests on both channels, acceptance ignored (R220) -/

/-- `SReadRq(reg, k)`. -/
def bothRead (reg : Byte) (k : Kind) (s : State) : Ran Unit :=
  (request .ch0 (some k) reg 0 s).bind fun _ s =>
  (request .ch1 (some k) reg 0 s).bind fun _ s => .done () s

/-- `SWriteRq(reg, v[c], k)`. -/
def bothWrite (reg : Byte) (v : PerChan (BitVec 16)) (k : Kind) (s : State) : Ran Unit :=
  (request .ch0 (some k) reg v.ch0 s).bind fun _ s =>
  (request .ch1 (some k) reg v.ch1 s).bind fun _ s => .done () s

/-! ## Sequencer field writes -/

/-- `sq.step <- n`. -/
def State.setStep (s : State) (n : SeqStep) : State := { s with sq := { s.sq with step := n } }

/-- `sq.poll <- b`. -/
def State.setPoll (s : State) (b : Bool) : State := { s with sq := { s.sq with poll := b } }

/-- An error found in steps 1 to 5: `sq.err <- 1; sq.step <- 0` (R229). -/
def State.restart (s : State) : State := { s with sq := { s.sq with err := true, step := .s0 } }

/-- `LastValue(c)` on both channels, channel 0 first: the values, and the state after. -/
def State.lastValues (s : State) : PerChan (BitVec 24) × State :=
  let s' := s.afterLastValue .ch0
  ({ ch0 := s.lastValue .ch0, ch1 := s'.lastValue .ch1 }, s'.afterLastValue .ch1)

/-! ## The six steps. Each is run with `idle` and `bad` as R220 computes them -/

/-- Step 0 (R221): counts the attempt, takes the time, asks for the status. It does not wait. -/
def seqStep0 (s : State) : Ran Unit :=
  let s := { s with sq := { s.sq with attempts := s.sq.attempts + 1 } }
  let t := s.now
  let s := s.readTimer
  let s := { s with sq := { s.sq with t0 := t } }
  (bothRead Config.regStatus Config.statusReadKind s).bind fun _ s =>
  .done () (s.setStep .s1)

/-- `LastValue(c)[15:0] & STATUS_MASK` (R222). -/
def maskStatus (v : BitVec 24) : BitVec 16 := v.extractLsb' 0 16 &&& Config.statusMask

/-- Step 1 (R222). -/
def seqStep1 (idle bad : Bool) (s : State) : Ran Unit :=
  if !idle then .done () s
  else if bad then .done () s.restart
  else
    let v := s.lastValues
    (bothWrite Config.regStatus { ch0 := maskStatus v.1.ch0, ch1 := maskStatus v.1.ch1 }
      Config.statusWriteKind v.2).bind fun _ s =>
    .done () (s.setStep .s2)

/-- Step 2 (R223). -/
def seqStep2 (idle bad : Bool) (s : State) : Ran Unit :=
  if !idle then .done () s
  else if bad then .done () s.restart
  else
    (bothWrite Config.regCmd { ch0 := Config.trigger.setWidth 16, ch1 := Config.trigger.setWidth 16 }
      Config.cmdWriteKind s).bind fun _ s =>
    .done () (s.setStep .s3)

/-- `(LastValue(c)[7:0] & BUSY_MASK) != 0` (R224). -/
def busy (v : BitVec 24) : Bool := v.extractLsb' 0 8 &&& Config.busyMask ≠ 0

/-- Step 3 (R224), its two phases told apart by `sq.poll`. -/
def seqStep3 (idle bad : Bool) (s : State) : Ran Unit :=
  if !idle then .done () s
  else if bad then .done () (s.setPoll false).restart
  else if !s.sq.poll then
    (bothRead Config.regCmd Config.cmdReadKind s).bind fun _ s => .done () (s.setPoll true)
  else
    let v := s.lastValues
    if busy v.1.ch0 || busy v.1.ch1 then bothRead Config.regCmd Config.cmdReadKind v.2
    else .done () ((v.2.setPoll false).setStep .s4)

/-- Step 4 (R225). -/
def seqStep4 (idle bad : Bool) (s : State) : Ran Unit :=
  if !idle then .done () s
  else if bad then .done () s.restart
  else
    (bothRead Config.regResult Config.resultReadKind s).bind fun _ s => .done () (s.setStep .s5)

/-- A good reading stored on both channels, the error cleared, the success counted (R226). The 24 bits are
stored as they are; `sext_24` is applied where they are read (`sext24`). -/
def State.storeReadings (s : State) (v : PerChan (BitVec 24)) : State :=
  { s with sq := { s.sq with
      raw := v
      rawvalid := { ch0 := true, ch1 := true }
      err := false
      successes := s.sq.successes + 1 } }

/-- `if d > sq.maxdur: sq.maxdur <- d`, strict (R226, 92_eei_decisions.md D30). -/
def State.recordCycle (s : State) (d : Config.TimerWord) : State :=
  { s with sq := { s.sq with maxdur := if s.sq.maxdur < d then d else s.sq.maxdur } }

/-- Step 5 (R226). -/
def seqStep5 (idle bad : Bool) (s : State) : Ran Unit :=
  if !idle then .done () s
  else if bad then .done () s.restart
  else
    let v := s.lastValues
    let s := v.2.storeReadings v.1
    let d := s.now - s.sq.t0
    .done () ((s.readTimer.recordCycle d).setStep .s0)

/-- `StepBody(sq.step, idle, bad)` (R220). -/
def seqBody (idle bad : Bool) (s : State) : Ran Unit :=
  match s.sq.step with
  | .s0 => seqStep0 s
  | .s1 => seqStep1 idle bad s
  | .s2 => seqStep2 idle bad s
  | .s3 => seqStep3 idle bad s
  | .s4 => seqStep4 idle bad s
  | .s5 => seqStep5 idle bad s

/-- `bad`: either channel reports an error (R220). -/
def State.bad (s : State) : Bool := (s.chan .ch0).te.err || (s.chan .ch1).te.err

/-- `STICK()` (R220): both ticks, channel 0 first, then the step; returns `sq.step`. -/
def seqTick (s : State) : Ran SeqStep :=
  (tick .ch0 s).bind fun b0 s =>
  (tick .ch1 s).bind fun b1 s =>
  (seqBody (!b0 && !b1) s.bad s).bind fun _ s =>
  .done s.sq.step s

/-! ## Setup (R240 to R242; log 9)

SSETUP takes one step of the machine for its checks and the two recoveries, and one step for each of its
internal STICKs; `sq.sactive` is 1 in between and the host is held (R97, R241). -/

/-- SSETUP up to its first STICK: the checks, the recoveries (results ignored), and the first try. -/
def setupBegin (s : State) : Ran Unit :=
  (guardOwner .ch0 s).bind fun _ s =>
  (guardOwner .ch1 s).bind fun _ s =>
  (guardReady .ch0 s).bind fun _ s =>
  (guardReady .ch1 s).bind fun _ s =>
  let s := { s with sq := { s.sq with sactive := true } }
  let s := s.setLines .ch0 ((s.chan .ch0).ld.recover .ch0).2
  let s := s.setLines .ch1 ((s.chan .ch1).ld.recover .ch1).2
  .done () { s with sq := { s.sq with stries := 0 + 1 } }

/-- The end of SSETUP: its outcome in `sq.setupok` and as the response. -/
def State.setupEnd (s : State) : State :=
  ({ s with sq := { s.sq with setupok := !s.sq.err, sactive := false } }).respond (.bool (!s.sq.err))

/-- `sq.err = 0 or sq.stries = SETUP_TRIES`: setup's loop ends after this cycle. -/
def State.setupDone (s : State) : Bool :=
  !s.sq.err || s.sq.stries = BitVec.ofNat 4 Config.setupTries

/-- One internal STICK of SSETUP and what follows it: nothing while the cycle goes on, the next try, or the
end. -/
def setupAdvance (s : State) : State :=
  match seqTick s with
  | .raised f s => s.raise f
  | .done step s =>
    if step ≠ .s0 then s
    else if s.setupDone then s.setupEnd
    else { s with sq := { s.sq with stries := s.sq.stries + 1 } }

/-! ## Commands -/

/-- STICK (R220). -/
def execStick (s : State) : Host.Outcome State Fault Refusal :=
  (seqTick s).outcome fun step => .u3 (seqStepCode step)

/-- SRDPRES (R231). -/
def execSrdpres (c : Chan) (s : State) : Host.Outcome State Fault Refusal :=
  let valid := s.sq.rawvalid.get c
  (Ran.done (if valid then Config.conv c (sext24 (s.sq.raw.get c)) else Config.drawReading s.draws)
    (s.drawIf (!valid))).outcome .reading

/-- SRDSEC (R232): always Fault(Unmodelled), whichever channel; its state is the faulted one. -/
def execSrdsec (_c : Chan) (s : State) : Host.Outcome State Fault Refusal :=
  (Ran.raised (α := Unit) .unmodelled s).outcome fun _ => .unit

/-- SISERR (R233). -/
def execSiserr (s : State) : Host.Outcome State Fault Refusal :=
  (Ran.done s.sq.err s).outcome .bool

/-- STIMINGS (R234): the larger maximum wins, a tie goes to channel 0, a channel without a sample loses. -/
def execStimings (s : State) : Host.Outcome State Fault Refusal :=
  let t0 := (s.chan .ch0).te
  let t1 := (s.chan .ch1).te
  let none := !t0.tvalid && !t1.tvalid
  let first := t0.tvalid && (!t1.tvalid || t1.tmax ≤ t0.tmax)
  (Ran.done (if none then s.noTiming else if first then t0.timing else t1.timing)
    (s.drawIf none)).outcome id

/-- SSTATS (R235): (attempts - successes, attempts). -/
def execSstats (s : State) : Host.Outcome State Fault Refusal :=
  (Ran.done (s.sq.attempts - s.sq.successes, s.sq.attempts) s).outcome fun p => .stats p.1 p.2

/-- SDUR (R236). -/
def execSdur (s : State) : Host.Outcome State Fault Refusal :=
  (Ran.done s.sq.maxdur s).outcome .dur

/-- SSETUP (R240): its first part; no response yet (log 9). -/
def execSsetup (s : State) : Host.Outcome State Fault Refusal :=
  match setupBegin s with
  | .done _ s => .next { s with resp := none }
  | .raised f s => .next (s.raise f)

/-- SSETOK (R243). -/
def execSsetok (s : State) : Host.Outcome State Fault Refusal :=
  (Ran.done s.sq.setupok s).outcome .bool

end Sys2Proof.Machine
end

