-- ==== Sys2Proof/Machine/Dispatch.lean ====
section
/-! DEFINITION. One arm per command: each calls its meaning. -/

namespace Sys2Proof.Machine

def exec (i : Instr) (s : State) : Host.Outcome State Fault Refusal :=
  match i with
  | .bstart c => Sys2Proof.Machine.execBstart c s
  | .bstop c => Sys2Proof.Machine.execBstop c s
  | .bwrite c v => Sys2Proof.Machine.execBwrite c v s
  | .bread c a => Sys2Proof.Machine.execBread c a s
  | .brecover c => Sys2Proof.Machine.execBrecover c s
  | .bready c => Sys2Proof.Machine.execBready c s
  | .treqwr c w reg value => Sys2Proof.Machine.execTreqwr c w reg value s
  | .treqrd c w reg => Sys2Proof.Machine.execTreqrd c w reg s
  | .ttick c => Sys2Proof.Machine.execTtick c s
  | .tvalue c => Sys2Proof.Machine.execTvalue c s
  | .tack c => Sys2Proof.Machine.execTack c s
  | .terror c => Sys2Proof.Machine.execTerror c s
  | .trecover c => Sys2Proof.Machine.execTrecover c s
  | .ttimings c => Sys2Proof.Machine.execTtimings c s
  | .trsttim c => Sys2Proof.Machine.execTrsttim c s
  | .ssetok => Sys2Proof.Machine.execSsetok s
  | .stick => Sys2Proof.Machine.execStick s
  | .srdpres c => Sys2Proof.Machine.execSrdpres c s
  | .srdsec c => Sys2Proof.Machine.execSrdsec c s
  | .siserr => Sys2Proof.Machine.execSiserr s
  | .stimings => Sys2Proof.Machine.execStimings s
  | .sstats => Sys2Proof.Machine.execSstats s
  | .sdur => Sys2Proof.Machine.execSdur s
  | .ssetup => Sys2Proof.Machine.execSsetup s

end Sys2Proof.Machine
end

