-- ==== Sys2Proof/Machine/Step.lean ====
section
/-! DEFINITION. One step of the machine (20_memory.md R73): a faulted machine stops; a machine inside SSETUP
runs one internal STICK; otherwise it runs the next command the host has issued, or waits for one. -/

namespace Sys2Proof.Machine

/-- The command of word w, or Fault(IllegalCommand) before any field changes (30_encoding.md R95, R96). -/
def runWord (w : Word) (s : State) : Host.Outcome State Fault Refusal :=
  match decode w with
  | none => .next (s.raise .illegalCommand)
  | some i => exec i s

/-- One step. After a fault no command executes (60_exceptions.md R270); while `sq.sactive` is 1 the host is
held (30_encoding.md R97, 42_acquisition_sequencer.md R241); with no command issued the block does nothing
(70_reset_and_hazards.md R301, 60_exceptions.md R290). -/
def step (s : State) : Host.Outcome State Fault Refusal :=
  match s.fault with
  | some f => .fault f
  | none =>
    if s.sq.sactive then .next (setupAdvance s)
    else match s.fetch with
      | none => .next s
      | some p => runWord p.1 p.2

/-- s with the word numbered as spec/opcode_table.json numbers it issued by the host as its next command
(log 1). -/
def State.withFetchWord (s : State) (nbits w : Nat) : State :=
  s.issue (BitVec.ofNat 32 (w % 2 ^ nbits))

end Sys2Proof.Machine
end

