-- ==== Sys2Proof/Machine/Assembler.lean ====
section
/-! DEFINITION. The assembler of 30_encoding.md R108: a well-formed assembler command to the command it
names. -/

namespace Sys2Proof.Machine

/-- The channel operand. -/
def chanOf (c : Nat) : Chan := if c = 0 then .ch0 else .ch1

/-- The width operand as a width code: any width other than 8, 16 and 24 assembles to 0b11 (R93, R108). -/
def widthCode (width : Nat) : BitVec 2 :=
  if width = 8 then 0 else if width = 16 then 1 else if width = 24 then 2 else 3

/-- The command of a well-formed line, its operands fitted to their fields. -/
def commandOfAsm : AsmCommand → Instr
  | .bstart c => .bstart (chanOf c)
  | .bstop c => .bstop (chanOf c)
  | .bwrite c byte => .bwrite (chanOf c) (BitVec.ofNat 8 byte)
  | .bread c ack => .bread (chanOf c) (ack = 1)
  | .brecover c => .brecover (chanOf c)
  | .bready c => .bready (chanOf c)
  | .treqwr c reg value width =>
    .treqwr (chanOf c) (widthCode width) (BitVec.ofNat 8 reg) (BitVec.ofNat 16 value)
  | .treqrd c reg width => .treqrd (chanOf c) (widthCode width) (BitVec.ofNat 8 reg)
  | .ttick c => .ttick (chanOf c)
  | .tvalue c => .tvalue (chanOf c)
  | .tack c => .tack (chanOf c)
  | .terror c => .terror (chanOf c)
  | .trecover c => .trecover (chanOf c)
  | .ttimings c => .ttimings (chanOf c)
  | .trsttim c => .trsttim (chanOf c)
  | .ssetok => .ssetok
  | .stick => .stick
  | .srdpres c => .srdpres (chanOf c)
  | .srdsec c => .srdsec (chanOf c)
  | .siserr => .siserr
  | .stimings => .stimings
  | .sstats => .sstats
  | .sdur => .sdur
  | .ssetup => .ssetup

/-- The command word of a line; none for an ill-formed line. -/
def assemble (a : AsmCommand) : Option Word :=
  if a.wf then some (encode (commandOfAsm a)) else none

end Sys2Proof.Machine
end

