-- ==== Sys2Proof/Machine/Errors.lean ====
section
/-! DEFINITION. The source's error kinds as a result of a command (60_exceptions.md R261 to R267, R280;
30_encoding.md R107). No command returns a code and no field stores one: `errorKind i s` says which error
the command i reports when it runs in s. R261 gives E0 to a command that completed without errors; that E0
also stands for a command that faults, and what an SSETUP reports, are the model's DESIGN CHOICE (log 19). -/

namespace Sys2Proof.Machine

/-- E0 to E5 (R107). -/
inductive ErrorKind where
  | none
  | busBusy
  | invalidWidth
  | nackError
  | busStuck
  | sequenceError
  deriving DecidableEq, Repr

/-- The codes E0 to E5 (R107). -/
def errorCode : ErrorKind → Nat
  | .none => 0
  | .busBusy => 1
  | .invalidWidth => 2
  | .nackError => 3
  | .busStuck => 4
  | .sequenceError => 5

/-- E1 and E2 of a request (R262, R263), BusBusy first (R280). A request that faults reports none: DESIGN
CHOICE (log 19). -/
def requestError : RequestVerdict → ErrorKind
  | .busBusy => .busBusy
  | .invalidWidth => .invalidWidth
  | .bitEngineBusy => .none
  | .accepted _ => .none

/-- E3 of a tick (R264): it ends a written byte that was not acknowledged. -/
def tickError (c : Chan) (s : State) : ErrorKind :=
  match (s.chan c).tickBody c with
  | .error _ => .none
  | .ok y =>
    if (s.chan c).be.mode = .writing ∧ y.be.mode = .idle ∧ y.be.ackr = false then .nackError else .none

/-- E4 of a recovery (R265). -/
def recoverError (c : Chan) (s : State) : ErrorKind :=
  match recoverCommand c s with
  | .done false _ => .busStuck
  | _ => .none

/-- E5 of a STICK (R266): in steps 1 to 5, both channels idle after their ticks and one of them in error. -/
def stickError (s : State) : ErrorKind :=
  match (tick .ch0 s).bind fun b0 s => (tick .ch1 s).bind fun b1 s => .done (!b0 && !b1 && s.bad) s with
  | .done true _ => if s.sq.step = .s0 then .none else .sequenceError
  | _ => .none

/-- E4 of an SSETUP (R265, R240): a recovery responds 0; SSETUP ignores it. That an SSETUP reports no more than
this, none where it faults and none of the SequenceErrors of its internal STICKs, is the model's DESIGN CHOICE
(log 19): R265 names SSETUP for BusStuck, and R266 only STICK for SequenceError. -/
def setupError (s : State) : ErrorKind :=
  match setupBegin s with
  | .raised _ _ => .none
  | .done _ _ =>
    if ((s.chan .ch0).ld.recover .ch0).1 && ((s.chan .ch1).ld.recover .ch1).1 then .none else .busStuck

/-- The error kind a command reports when it runs in s; E0 where it completes without any (R261). E0 also
where the command faults: R261 speaks only of commands that complete, so that is the model's DESIGN CHOICE (log
19). -/
def errorKind (i : Instr) (s : State) : ErrorKind :=
  match i with
  | .bstart _ => .none
  | .bstop _ => .none
  | .bwrite _ _ => .none
  | .bread _ _ => .none
  | .brecover c => recoverError c s
  | .bready _ => .none
  | .treqwr c w _ _ => requestError ((s.chan c).judgeRequest (writeKind w))
  | .treqrd c w _ => requestError ((s.chan c).judgeRequest (readKind w))
  | .ttick c => tickError c s
  | .tvalue _ => .none
  | .tack _ => .none
  | .terror _ => .none
  | .trecover c => recoverError c s
  | .ttimings _ => .none
  | .trsttim _ => .none
  | .ssetok => .none
  | .stick => stickError s
  | .srdpres _ => .none
  | .srdsec _ => .none
  | .siserr => .none
  | .stimings => .none
  | .sstats => .none
  | .sdur => .none
  | .ssetup => setupError s

end Sys2Proof.Machine
end

