-- ==== Sys2Proof/Safety.lean ====
section
/-! DEFINITION. The terms claims use: safe, final and clean-launch states (70_reset_and_hazards.md R305,
R321), the invariants of 10_state.md R51 and R48, sequences of commands, the wire formats of 30_encoding.md
R100 to R103 as lists of bus events, and the next-state table of 41_transaction_engine.md R171. -/

namespace Sys2Proof.Machine

/-! ## Safe, final and launch states -/

/-- No fault is recorded: the run may go on (60_exceptions.md R270). -/
def State.safe (s : State) : Bool := s.fault.isNone

/-- No transaction in progress and no byte mid-sequence on channel x. -/
def Channel.atRest (x : Channel) : Bool := x.free && x.ready

/-- Both lines of a channel released. -/
def LineDriver.bothReleased (x : LineDriver) : Bool := x.sda = .released && x.scl = .released

/-- The clean launch state (70_reset_and_hazards.md R305). -/
def State.cleanLaunch (s : State) : Bool :=
  s.safe && (s.chan .ch0).atRest && (s.chan .ch1).atRest && s.sq.step = .s0 && !s.sq.poll &&
    (s.chan .ch0).ld.trace = [] && (s.chan .ch1).ld.trace = []

/-! ## Sequences of commands -/

/-- The commands of the list run one after the other (20_memory.md R73). -/
def execAll : List Instr → State → Host.Outcome State Fault Refusal
  | [], s => .next s
  | i :: rest, s =>
    match exec i s with
    | .next t => execAll rest t
    | .fault f => .fault f
    | .refused r => .refused r

/-- n TTICKs of channel c. -/
def ticks (c : Chan) (n : Nat) (s : State) : Host.Outcome State Fault Refusal :=
  execAll (List.replicate n (.ttick c)) s

/-- n TTICKs of channel c end in t, the last response 0 and every earlier one 1
(41_transaction_engine.md R173). -/
def DoneAfter (c : Chan) (n : Nat) (s t : State) : Prop :=
  ticks c n s = .next t ∧ t.resp = some (.bool false) ∧
    ∀ m, 0 < m → m < n → ∃ u, ticks c m s = .next u ∧ u.resp = some (.bool true)

/-! ## Invariants -/

/-- What the transaction state allows the BitEngine to be doing (10_state.md R51 (a) to (c)). -/
def Channel.coherent (x : Channel) : Bool :=
  match x.te.st with
  | .idle => true
  | .start _ => x.be.mode = .idle
  | .restart _ => x.be.mode = .idle
  | .stop _ => x.be.mode = .idle
  | .addr _ => x.be.mode ≠ .reading
  | .reg _ => x.be.mode ≠ .reading
  | .addr2 _ => x.be.mode ≠ .reading
  | .wdata _ => x.be.mode ≠ .reading
  | .rdata _ => x.be.mode ≠ .writing

/-- The state one event leaves line l in. -/
def lineStep (l : Line) (v : LineState) : BusEvent → LineState
  | .driveLow m => if m = l then .drivenLow else v
  | .release m => if m = l then .released else v
  | .settle => v
  | .sample _ _ => v

/-- The state a trace from reset leaves line l in: lines are released at reset, and only `DriveLow` and
`Release` change them (10_state.md R21). -/
def lineAfter (l : Line) (trace : List BusEvent) : LineState := trace.foldl (lineStep l) .released

/-- The line states are those the trace says. -/
def LineDriver.Traced (x : LineDriver) : Prop := ∀ l, x.line l = lineAfter l x.trace

/-- Every sample was taken on a released line (00_scope.md R15, 40_bit_engine.md R131). -/
def LineDriver.SampledReleased (x : LineDriver) : Prop :=
  ∀ before l b rest, x.trace = before ++ .sample l b :: rest → lineAfter l before = .released

/-- The states a transaction can be in after a written byte was not acknowledged (41_transaction_engine.md
R168): Stop, Idle, and Data1 of a Write16 that goes on. -/
def errorState : TState → Bool
  | .idle => true
  | .start _ => false
  | .addr _ => false
  | .reg _ => false
  | .wdata .w8d0 => false
  | .wdata .w16d0 => false
  | .wdata .w16d1 => true
  | .restart _ => false
  | .addr2 _ => false
  | .rdata _ => false
  | .stop _ => true

/-- The states in which a read's value can be valid: its Stop, and Idle (10_state.md R34). -/
def valueState : TState → Bool
  | .idle => true
  | .start _ => false
  | .addr _ => false
  | .reg _ => false
  | .wdata _ => false
  | .restart _ => false
  | .addr2 _ => false
  | .rdata _ => false
  | .stop (.read _) => true
  | .stop (.write _) => false

/-- What holds of every channel in every reachable state. -/
structure Channel.Sound (x : Channel) : Prop where
  /-- 10_state.md R51 (a) to (c). -/
  coherent : x.coherent = true
  /-- 10_state.md R21. -/
  traced : x.ld.Traced
  /-- 40_bit_engine.md R131. -/
  sampled : x.ld.SampledReleased
  /-- SDA stays released from the latch of a byte read to its ACK phase (40_bit_engine.md R136). -/
  reading : x.be.mode = .reading → x.ld.sda = .released
  /-- 41_transaction_engine.md R168. -/
  erring : x.te.err = true → errorState x.te.st = true
  /-- 10_state.md R34: "valid once idle and no error". -/
  valued : x.te.vvalid = true → x.te.err = false ∧ valueState x.te.st = true
  /-- 41_transaction_engine.md R172, R180: no sample recorded and a zero maximum go together. -/
  timed : x.te.tvalid = false ↔ x.te.tmax = 0

/-- What holds of every reachable state (10_state.md R38, R39, R44, R51; 60_exceptions.md R277). -/
structure State.Inv (s : State) : Prop where
  channels : ∀ c, (s.chan c).Sound
  /-- A poll is outstanding only in step 3 (R39). -/
  polling : s.sq.poll = true → s.sq.step = .s3
  /-- `sq.stries` stays in 0..10 (R44). -/
  tries : s.sq.stries.toNat ≤ Config.setupTries
  /-- Inside SSETUP no host byte is unfinished (60_exceptions.md R277). -/
  held : s.sq.sactive = true → ∀ c, (s.chan c).te.st = .idle → (s.chan c).be.mode = .idle

/-- What STICKs and queries alone keep (10_state.md R53): at step 0 both channels are at rest. -/
structure State.SeqRest (s : State) : Prop where
  coherent : ∀ c, (s.chan c).coherent = true
  idleReady : ∀ c, (s.chan c).te.st = .idle → (s.chan c).be.mode = .idle
  rest : s.sq.step = .s0 → ∀ c, (s.chan c).te.st = .idle

/-! ## The wire formats as bus events -/

/-- A start condition (40_bit_engine.md R133, 30_encoding.md R102). -/
def startEvents : List BusEvent :=
  [.release .scl, .release .sda, .settle, .driveLow .sda, .settle, .driveLow .scl]

/-- A stop condition (40_bit_engine.md R134). -/
def stopEvents : List BusEvent :=
  [.driveLow .sda, .settle, .release .scl, .settle, .release .sda, .settle]

/-- SDA for a bit: released for 1, low for 0 (30_encoding.md R101). -/
def sdaEvent (b : Bool) : BusEvent := if b then .release .sda else .driveLow .sda

/-- The bits of a byte, most significant first (20_memory.md R64). -/
def msbFirst (v : Byte) : List Bool :=
  [v.getLsbD 7, v.getLsbD 6, v.getLsbD 5, v.getLsbD 4, v.getLsbD 3, v.getLsbD 2, v.getLsbD 1, v.getLsbD 0]

/-- The bit-time of a data bit the block sends. -/
def sendBitEvents (b : Bool) : List BusEvent :=
  [sdaEvent b, .settle, .release .scl, .settle, .driveLow .scl]

/-- The bit-time of a bit the block samples as b. -/
def takeBitEvents (b : Bool) : List BusEvent :=
  [.settle, .release .scl, .settle, .sample .sda b, .driveLow .scl]

/-- A byte v written, its ACK bit sampled at the given level (40_bit_engine.md R135). -/
def writtenByte (v : Byte) (level : Bool) : List BusEvent :=
  (msbFirst v).flatMap sendBitEvents ++ .release .sda :: takeBitEvents level

/-- A byte v read, answered with ACK (`true`) or NACK (40_bit_engine.md R136). -/
def readByteEvents (v : Byte) (ack : Bool) : List BusEvent :=
  .release .sda :: (msbFirst v).flatMap takeBitEvents ++ sendBitEvents (!ack)

/-- Recovery pulses (40_bit_engine.md R137). -/
def pulseEvents (n : Nat) : List BusEvent :=
  (List.replicate n [.driveLow .scl, .settle, .release .scl, .settle]).flatten

/-- The frame of a read whose written bytes are all acknowledged; every data byte but the last is answered
with ACK (30_encoding.md R103). -/
def readFrame (c : Chan) (reg : Byte) (data : List Byte) : List BusEvent :=
  startEvents ++ writtenByte (addrWrite c) false ++ writtenByte reg false ++
    startEvents ++ writtenByte (addrRead c) false ++
    (data.dropLast.flatMap fun b => readByteEvents b true) ++
    (data.getLast?.toList.flatMap fun b => readByteEvents b false) ++ stopEvents

/-- The data bytes a write of this kind sends (41_transaction_engine.md R160). -/
def writeData (k : WKind) (wval : BitVec 16) : List Byte :=
  match k with
  | .write8 => [wval.extractLsb' 0 8]
  | .write16 => [wval.extractLsb' 8 8, wval.extractLsb' 0 8]

/-- The frame of a write whose bytes are all acknowledged but perhaps the last, whose ACK bit is at the
given level (30_encoding.md R103). -/
def writeFrame (c : Chan) (reg : Byte) (data : List Byte) (level : Bool) : List BusEvent :=
  startEvents ++ writtenByte (addrWrite c) false ++ writtenByte reg false ++
    (data.dropLast.flatMap fun b => writtenByte b false) ++
    (data.getLast?.toList.flatMap fun b => writtenByte b level) ++ stopEvents

/-- The value a read of these bytes yields: big-endian (41_transaction_engine.md R170). -/
def bigEndian (data : List Byte) : Nat := data.foldl (fun n b => n * 256 + b.toNat) 0

/-! ## The next-state table of 41_transaction_engine.md R171 -/

/-- Where a byte the block writes leads when it is acknowledged; none for a state that writes no byte. -/
def nextWithAck : TState → Option TState
  | .addr k => some (.reg k)
  | .reg (.write .write8) => some (.wdata .w8d0)
  | .reg (.write .write16) => some (.wdata .w16d0)
  | .reg (.read k) => some (.restart k)
  | .wdata .w8d0 => some (.stop (.write .write8))
  | .wdata .w16d0 => some (.wdata .w16d1)
  | .wdata .w16d1 => some (.stop (.write .write16))
  | .addr2 .read8 => some (.rdata .r8d0)
  | .addr2 .read16 => some (.rdata .r16d0)
  | .addr2 .read24 => some (.rdata .r24d0)
  | .idle => none
  | .start _ => none
  | .restart _ => none
  | .rdata _ => none
  | .stop _ => none

/-- Where it leads when it is not acknowledged. -/
def nextWithNack : TState → Option TState
  | .addr k => some (.stop k)
  | .reg k => some (.stop k)
  | .wdata .w8d0 => some (.stop (.write .write8))
  | .wdata .w16d0 =>
    some (match Config.nackMidWrite with
      | .shortCircuit => .stop (.write .write16)
      | .continueOn => .wdata .w16d1)
  | .wdata .w16d1 => some (.stop (.write .write16))
  | .addr2 k => some (.stop (.read k))
  | .idle => none
  | .start _ => none
  | .restart _ => none
  | .rdata _ => none
  | .stop _ => none

/-! ## Frames -/

/-- Everything outside channel c that a tick of c leaves alone; it reads the timer twice
(41_transaction_engine.md R172). -/
def TickFrame (c : Chan) (s t : State) : Prop :=
  (∀ d, d ≠ c → t.chan d = s.chan d) ∧ t.sq = s.sq ∧ t.fault = s.fault ∧ t.cmds = s.cmds ∧
    t.draws = s.draws ∧ t.timer = s.timer.read.read

/-- The TransactionEngine fields but the state and the timing sample. -/
def SameRegisters (a b : TransEngine) : Prop :=
  a.reg = b.reg ∧ a.wval = b.wval ∧ a.acc = b.acc ∧ a.val = b.val ∧ a.vvalid = b.vvalid ∧ a.ack = b.ack ∧
    a.err = b.err

/-- The channel a command addresses; none for the sequencer's commands without a CH field
(30_encoding.md R94). -/
def channelOf : Instr → Option Chan
  | .bstart c => some c
  | .bstop c => some c
  | .bwrite c _ => some c
  | .bread c _ => some c
  | .brecover c => some c
  | .bready c => some c
  | .treqwr c _ _ _ => some c
  | .treqrd c _ _ => some c
  | .ttick c => some c
  | .tvalue c => some c
  | .tack c => some c
  | .terror c => some c
  | .trecover c => some c
  | .ttimings c => some c
  | .trsttim c => some c
  | .ssetok => none
  | .stick => none
  | .srdpres c => some c
  | .srdsec c => some c
  | .siserr => none
  | .stimings => none
  | .sstats => none
  | .sdur => none
  | .ssetup => none

/-- The TransactionEngine and BitEngine commands a host may issue of its own, but for the queries
(10_state.md R53, 70_reset_and_hazards.md R315). -/
def hostDrives : Instr → Bool
  | .bstart _ => true
  | .bstop _ => true
  | .bwrite _ _ => true
  | .bread _ _ => true
  | .brecover _ => true
  | .bready _ => false
  | .treqwr _ _ _ _ => true
  | .treqrd _ _ _ => true
  | .ttick _ => true
  | .tvalue _ => false
  | .tack _ => false
  | .terror _ => false
  | .trecover _ => true
  | .ttimings _ => false
  | .trsttim _ => false
  | .ssetok => false
  | .stick => false
  | .srdpres _ => false
  | .srdsec _ => false
  | .siserr => false
  | .stimings => false
  | .sstats => false
  | .sdur => false
  | .ssetup => false

/-- The word with this OP and this channel, every other field 0 (30_encoding.md R91). -/
def rowWord (op : Nat) (c : Chan) : Word := BitVec.ofNat 32 (op * 2 ^ 27 + c.bit.toNat * 2 ^ 26)

/-- The channel after an accepted request (41_transaction_engine.md R165). -/
def requested (x : Channel) (k : Kind) (reg : Byte) (wval : BitVec 16) : Channel :=
  { x with te := { x.te with
      reg := reg, wval := wval, err := false, ack := false, vvalid := false, st := .start k } }

/-- The byte a written-byte state puts on the wire: the address with the R/W bit (30_encoding.md R100), the
register, or the value's bytes, most significant first (41_transaction_engine.md R160, R161). -/
def byteToSend (c : Chan) (t : TransEngine) : Option Byte :=
  match t.st with
  | .addr _ => some ((Config.devAddr c).setWidth 8 <<< 1)
  | .reg _ => some t.reg
  | .wdata .w8d0 => some (t.wval.setWidth 8)
  | .wdata .w16d0 => some ((t.wval >>> 8).setWidth 8)
  | .wdata .w16d1 => some (t.wval.setWidth 8)
  | .addr2 _ => some ((Config.devAddr c).setWidth 8 <<< 1 ||| 1)
  | .idle => none
  | .start _ => none
  | .restart _ => none
  | .rdata _ => none
  | .stop _ => none

/-- Where a read's data byte leads (41_transaction_engine.md R171). -/
def nextRead : RData → TState
  | .r8d0 => .stop (.read .read8)
  | .r16d0 => .rdata .r16d1
  | .r16d1 => .stop (.read .read16)
  | .r24d0 => .rdata .r24d1
  | .r24d1 => .rdata .r24d2
  | .r24d2 => .stop (.read .read24)

/-- The final data byte of its read: the one answered with NACK (41_transaction_engine.md R162). -/
def finalByte : RData → Bool
  | .r8d0 => true
  | .r16d0 => false
  | .r16d1 => true
  | .r24d0 => false
  | .r24d1 => false
  | .r24d2 => true

/-- Is the event a sample? -/
def isSample : BusEvent → Bool
  | .driveLow _ => false
  | .release _ => false
  | .settle => false
  | .sample _ _ => true

/-! ## Host duties (70_reset_and_hazards.md R311 to R315), as a claim may assume them -/

/-- A byte the host has begun on the channel and not finished: mid-sequence with no transaction
(10_state.md R51 (d)). -/
def Channel.hostByte (x : Channel) : Bool := x.free && !x.ready

/-- R312: a byte the host has begun is finished before anything that needs the BitEngine idle, and by calls
of the same operation. -/
def finishesByte (s : State) : Instr → Bool
  | .bstart c => !(s.chan c).hostByte
  | .bstop c => !(s.chan c).hostByte
  | .bwrite c _ => !((s.chan c).hostByte && (s.chan c).be.mode = .reading)
  | .bread c _ => !((s.chan c).hostByte && (s.chan c).be.mode = .writing)
  | .brecover c => !(s.chan c).hostByte
  | .bready _ => true
  | .treqwr c _ _ _ => !(s.chan c).hostByte
  | .treqrd c _ _ => !(s.chan c).hostByte
  | .ttick _ => true
  | .tvalue _ => true
  | .tack _ => true
  | .terror _ => true
  | .trecover c => !(s.chan c).hostByte
  | .ttimings _ => true
  | .trsttim _ => true
  | .ssetok => true
  | .stick => !(s.chan .ch0).hostByte && !(s.chan .ch1).hostByte
  | .srdpres _ => true
  | .srdsec _ => true
  | .siserr => true
  | .stimings => true
  | .sstats => true
  | .sdur => true
  | .ssetup => !(s.chan .ch0).hostByte && !(s.chan .ch1).hostByte

/-- R314, R315: while the script runs (`sq.step != 0`) the host issues no request, tick, bit-level command
or recovery of its own; and at step 0 no STICK is issued while a request of the host's is in progress. -/
def keepsOut (s : State) : Instr → Bool
  | .bstart _ => s.sq.step = .s0
  | .bstop _ => s.sq.step = .s0
  | .bwrite _ _ => s.sq.step = .s0
  | .bread _ _ => s.sq.step = .s0
  | .brecover _ => s.sq.step = .s0
  | .bready _ => true
  | .treqwr _ _ _ _ => s.sq.step = .s0
  | .treqrd _ _ _ => s.sq.step = .s0
  | .ttick _ => s.sq.step = .s0
  | .tvalue _ => true
  | .tack _ => true
  | .terror _ => true
  | .trecover _ => s.sq.step = .s0
  | .ttimings _ => true
  | .trsttim _ => true
  | .ssetok => true
  | .stick => s.sq.step ≠ .s0 || ((s.chan .ch0).free && (s.chan .ch1).free)
  | .srdpres _ => true
  | .srdsec _ => true
  | .siserr => true
  | .stimings => true
  | .sstats => true
  | .sdur => true
  | .ssetup => true

end Sys2Proof.Machine
end

