-- ==== Sys2Proof/Certificates/Slice0/Obligations.lean ====
section
/-! DEFINITION. The statements about the model, one per rule or group of rules of spec/; their ids, titles
and citations are in OBLIGATIONS.json. Every next state is written out, so that what it does not name is
unchanged. -/

open Sys2Proof Sys2Proof.Machine

/-! ## Encoding -/

/-- 30_encoding.md R110: the example words, assembled and decoded. -/
def Obligations.ExampleWordsOfTheSpec : Prop :=
  (assemble (.treqwr 0 0x30 0x0A 8) = some 0x4030000A ∧
    decode 0x4030000A = some (.treqwr .ch0 0 0x30 0x000A)) ∧
  (assemble (.treqrd 1 0x30 16) = some 0x4D300000 ∧
    decode 0x4D300000 = some (.treqrd .ch1 1 0x30)) ∧
  (assemble (.treqrd 0 0x10 24) = some 0x4A100000 ∧
    decode 0x4A100000 = some (.treqrd .ch0 2 0x10)) ∧
  (assemble (.treqwr 0 0x30 0x0A 24) = some 0x4230000A ∧
    decode 0x4230000A = some (.treqwr .ch0 2 0x30 0x000A)) ∧
  (∀ s : State, exec (.treqwr .ch0 2 0x30 0x000A) s = .next { s with resp := some (.bool false) }) ∧
  (assemble (.ttick 0) = some 0x50000000 ∧ decode 0x50000000 = some (.ttick .ch0)) ∧
  (assemble (.ttick 1) = some 0x54000000 ∧ decode 0x54000000 = some (.ttick .ch1)) ∧
  (assemble (.bwrite 0 0xA5) = some 0x180000A5 ∧ decode 0x180000A5 = some (.bwrite .ch0 0xA5)) ∧
  (assemble (.bread 1 1) = some 0x24000001 ∧ decode 0x24000001 = some (.bread .ch1 true)) ∧
  (assemble .stick = some 0xC0000000 ∧ decode 0xC0000000 = some .stick) ∧
  (assemble .ssetup = some 0xF8000000 ∧ decode 0xF8000000 = some .ssetup) ∧
  decode 0x50000001 = none

/-- Every command's word decodes to it, with every operand at every value its field admits (30_encoding.md
R91, R92, R94, R96). -/
def Obligations.DecodeOfEncode : Prop :=
  ∀ i : Instr, decode (encode i) = some i

/-- A word that decodes is the word of its command: no bit of a legal word is without meaning
(30_encoding.md R92, R95, R96). -/
def Obligations.EncodeOfDecode : Prop :=
  ∀ (w : Word) (i : Instr), decode w = some i → encode i = w

/-- A word is illegal exactly when no row of the opcode table matches it, and then the machine faults with
IllegalCommand before any field changes (60_exceptions.md R271, 30_encoding.md R96). That the faulting word
leaves the queue of issued words is the model's choice (log 1). -/
def Obligations.IllegalWordFaults : Prop :=
  (∀ w : Word, decode w = none ↔ ∀ r ∈ opcodeRows, w &&& r.2 ≠ r.1) ∧
  ∀ (s : State) (w : Word) (rest : List Word),
    s.fault = none → s.sq.sactive = false → s.cmds = w :: rest → (∀ r ∈ opcodeRows, w &&& r.2 ≠ r.1) →
    step s = .next { s with cmds := rest, fault := some .illegalCommand, resp := none }

/-! ## The step -/

/-- The next word the host has issued, when it decodes to i, is run as i, on the state without that word
(20_memory.md R73, 30_encoding.md R96). The queue of issued words is the model's choice (log 1). -/
def Obligations.StepRunsTheDecodedCommand : Prop :=
  ∀ (s : State) (w : Word) (rest : List Word) (i : Instr),
    s.fault = none → s.sq.sactive = false → s.cmds = w :: rest → decode w = some i →
    step s = exec i { s with cmds := rest }

/-- After a fault no command executes (60_exceptions.md R270). That the step after the faulting command is the
one that stops is the model's choice (log 2). -/
def Obligations.FaultedMachineStops : Prop :=
  ∀ (s : State) (f : Fault), s.fault = some f → step s = .fault f

/-- With no command issued the block does nothing (60_exceptions.md R290, 70_reset_and_hazards.md R301; the
queue of issued words is the model's choice, log 1). -/
def Obligations.WaitsForTheHost : Prop :=
  ∀ s : State, s.fault = none → s.sq.sactive = false → s.cmds = [] → step s = .next s

/-- While SSETUP runs the host has no step: what it has issued is not looked at and stays as it is
(30_encoding.md R97, 42_acquisition_sequencer.md R241; the queue and the split of SSETUP into steps are the
model's choices, log 1 and log 9). -/
def Obligations.HostIsHeldDuringSetup : Prop :=
  ∀ (s : State) (q : List Word), s.fault = none → s.sq.sactive = true →
    ∃ t, step s = .next t ∧ t.cmds = s.cmds ∧ step { s with cmds := q } = .next { t with cmds := q }

/-- What reset leaves, in every field to which 10_state.md R48 gives a reset value (70_reset_and_hazards.md
R300, R305). -/
def Obligations.ResetLeaves : Prop :=
  let s := State.reset
  (∀ c, (s.chan c).ld.sda = .released ∧ (s.chan c).ld.scl = .released ∧ (s.chan c).ld.trace = [] ∧
    (s.chan c).be.mode = .idle ∧ (s.chan c).be.ackr = false ∧
    (s.chan c).te.st = .idle ∧ (s.chan c).te.vvalid = false ∧ (s.chan c).te.ack = false ∧
    (s.chan c).te.err = false ∧ (s.chan c).te.tmax = 0 ∧ (s.chan c).te.tvalid = false ∧
    s.sq.rawvalid.get c = false) ∧
  s.sq.step = .s0 ∧ s.sq.poll = false ∧ s.sq.err = false ∧ s.sq.attempts = 0 ∧ s.sq.successes = 0 ∧
  s.sq.maxdur = 0 ∧ s.sq.setupok = false ∧ s.sq.sactive = false ∧ s.sq.stries = 0 ∧ s.fault = none ∧
  s.cleanLaunch = true

/-- The invariant of `State.Inv` holds at reset. -/
def Obligations.InvariantAtReset : Prop := State.reset.Inv

/-- Every step keeps the invariant: what the transaction state allows the BitEngine (10_state.md R51), line
states as the trace says (R21), samples of released lines only (40_bit_engine.md R131), SDA released during
a byte read (R136), errors and values only where the rules allow them (R34, 41_transaction_engine.md R168),
no sample recorded exactly when the maximum is 0 (R180), a poll outstanding only in step 3 (R39), at most
ten tries (R44), and no unfinished host byte inside SSETUP (60_exceptions.md R277). -/
def Obligations.StepKeepsTheInvariant : Prop :=
  ∀ s t : State, s.Inv → step s = .next t → t.Inv

/-! ## BitEngine -/

/-- BSTART (40_bit_engine.md R133, R140) on a channel at rest. -/
def Obligations.BstartSendsAStart : Prop :=
  ∀ (c : Chan) (s : State), (s.chan c).te.st = .idle → (s.chan c).be.mode = .idle →
    exec (.bstart c) s = .next { s with
      chans := s.chans.set c { s.chan c with ld := { (s.chan c).ld with
        sda := .drivenLow
        scl := .drivenLow
        trace := (s.chan c).ld.trace ++
          [.release .scl, .release .sda, .settle, .driveLow .sda, .settle, .driveLow .scl] } }
      resp := some .unit }

/-- BSTOP (40_bit_engine.md R134, R141) on a channel at rest. -/
def Obligations.BstopSendsAStop : Prop :=
  ∀ (c : Chan) (s : State), (s.chan c).te.st = .idle → (s.chan c).be.mode = .idle →
    exec (.bstop c) s = .next { s with
      chans := s.chans.set c { s.chan c with ld := { (s.chan c).ld with
        sda := .released
        scl := .released
        trace := (s.chan c).ld.trace ++
          [.driveLow .sda, .settle, .release .scl, .settle, .release .sda, .settle] } }
      resp := some .unit }

/-- F4 ChannelOwned (60_exceptions.md R274): a host bit-level command but BREADY, TRECOVER, or SSETUP while a
transaction is in progress, before any field changes; BREADY does not fault. -/
def Obligations.ChannelOwnedFault : Prop :=
  ∀ (c : Chan) (s : State), (s.chan c).te.st ≠ .idle →
    (∀ i, i = .bstart c ∨ i = .bstop c ∨ (∃ v, i = .bwrite c v) ∨ (∃ a, i = .bread c a) ∨
        i = .brecover c ∨ i = .trecover c ∨ i = .ssetup →
      exec i s = .next { s with fault := some .channelOwned, resp := none }) ∧
    ∃ b, exec (.bready c) s = .next { s with resp := some (.bool b) }

/-- F3 BitEngineBusy (60_exceptions.md R273, R276): what needs the BitEngine idle while a byte is mid-sequence.
For SSETUP both channels are free of transactions. For a STICK, u is the state its two ticks leave: a request
of any of its steps 0 to 4 faults, in step 0 on either free channel whatever the other is doing. Where step 3
judges a value that is not valid, a draw decides whether it makes the request. That a faulting STICK keeps
the script's step and the attempt it counted is the model's choice (log 14; R270 and R277 let a model drop
them). -/
def Obligations.BitEngineBusyFault : Prop :=
  (∀ (c : Chan) (s : State), (s.chan c).te.st = .idle → (s.chan c).be.mode ≠ .idle →
    (∀ i, i = .bstart c ∨ i = .bstop c ∨ i = .brecover c ∨ i = .trecover c ∨
        (∃ w reg v, w.toNat < 2 ∧ i = .treqwr c w reg v) ∨ (∃ w reg, w.toNat < 3 ∧ i = .treqrd c w reg) →
      exec i s = .next { s with fault := some .bitEngineBusy, resp := none })) ∧
  (∀ s : State, (∀ c, (s.chan c).te.st = .idle) → (∃ c, (s.chan c).be.mode ≠ .idle) →
    exec .ssetup s = .next { s with fault := some .bitEngineBusy, resp := none }) ∧
  ∀ s u : State, (∀ c, (s.chan c).coherent = true) → execAll [.ttick .ch0, .ttick .ch1] s = .next u →
    (∃ c, (u.chan c).te.st = .idle ∧ (u.chan c).be.mode ≠ .idle) →
    (u.sq.step = .s0 ∨
        (∀ c, (u.chan c).te.st = .idle ∧ (u.chan c).te.err = false) ∧
          (u.sq.step = .s1 ∨ u.sq.step = .s2 ∨ u.sq.step = .s4 ∨
            u.sq.step = .s3 ∧ (u.sq.poll = false ∨
              ∃ c, (u.chan c).te.vvalid = true ∧ (u.chan c).te.val.getLsbD 3 = true)) →
      ∃ t, exec .stick s = .next t ∧ t.fault = some .bitEngineBusy ∧ t.resp = none ∧
        t.sq.step = u.sq.step ∧
        t.sq.attempts = if u.sq.step = .s0 then u.sq.attempts + 1 else u.sq.attempts) ∧
    ((∀ c, (u.chan c).te.st = .idle ∧ (u.chan c).te.err = false) → u.sq.step = .s3 → u.sq.poll = true →
        (∃ c, (u.chan c).te.vvalid = false) →
      ∃ t, exec .stick s = .next t ∧
        (t.fault = some .bitEngineBusy ∧ t.resp = none ∧ t.sq.step = .s3 ∨
          t.fault = u.fault ∧ t.resp = some (.u3 4) ∧ t.sq.step = .s4))

/-- F2 ByteOpConflict (60_exceptions.md R272): the other byte operation mid-byte, before any field changes. -/
def Obligations.ByteOpConflictFault : Prop :=
  ∀ (c : Chan) (s : State), (s.chan c).te.st = .idle →
    ((s.chan c).be.mode = .reading → ∀ v,
      exec (.bwrite c v) s = .next { s with fault := some .byteOpConflict, resp := none }) ∧
    ((s.chan c).be.mode = .writing → ∀ a,
      exec (.bread c a) s = .next { s with fault := some .byteOpConflict, resp := none })

/-- BWRITE call by call (40_bit_engine.md R135, R142): the latch; a data bit, most significant first; the ACK
phase, whose sample b is the environment's next answer where one is listed. -/
def Obligations.BwriteCallByCall : Prop :=
  ∀ (c : Chan) (v : Byte) (s : State), (s.chan c).te.st = .idle →
    ((s.chan c).be.mode = .idle →
      exec (.bwrite c v) s = .next { s with
        chans := s.chans.set c { s.chan c with be := { (s.chan c).be with
          mode := .writing, sh := v, idx := 0, ackr := false } }
        resp := some (.bool false) }) ∧
    ((s.chan c).be.mode = .writing → (s.chan c).be.idx.val ≤ 7 →
      exec (.bwrite c v) s = .next { s with
        chans := s.chans.set c { s.chan c with
          ld := { (s.chan c).ld with
            sda := if (s.chan c).be.sh.getLsbD 7 then .released else .drivenLow
            scl := .drivenLow
            trace := (s.chan c).ld.trace ++ sendBitEvents ((s.chan c).be.sh.getLsbD 7) }
          be := { (s.chan c).be with sh := (s.chan c).be.sh <<< 1, idx := (s.chan c).be.idx + 1 } }
        resp := some (.bool (s.chan c).be.ackr) }) ∧
    ((s.chan c).be.mode = .writing → (s.chan c).be.idx.val = 8 →
      ∃ (b : Bool) (t : State), exec (.bwrite c v) s = .next t ∧ t.resp = some (.bool (!b)) ∧
        (∀ a rest, (s.chan c).ld.answers = a :: rest → b = a ∧ (t.chan c).ld.answers = rest) ∧
        (t.chan c).ld.sda = .released ∧ (t.chan c).ld.scl = .drivenLow ∧
        (t.chan c).ld.trace = (s.chan c).ld.trace ++ .release .sda :: takeBitEvents b ∧
        (t.chan c).be = { (s.chan c).be with ackr := !b, mode := .idle } ∧
        (t.chan c).te = (s.chan c).te ∧ (∀ d, d ≠ c → t.chan d = s.chan d) ∧ t.sq = s.sq ∧
        t.fault = s.fault ∧ t.cmds = s.cmds ∧ t.timer = s.timer ∧ t.draws = s.draws)

/-- Ten BWRITEs send one byte (40_bit_engine.md R135): the byte of the first call, most significant bit
first, whatever the nine later calls carry; the response is 0 nine times and then the ACK. -/
def Obligations.TenBwritesSendAByte : Prop :=
  ∀ (c : Chan) (v : Byte) (later : List Byte) (level : Bool) (rest : List Bool) (s : State),
    (s.chan c).te.st = .idle → (s.chan c).be.mode = .idle → later.length = 9 →
    (s.chan c).ld.answers = level :: rest →
    (∃ t, execAll (.bwrite c v :: later.map (.bwrite c)) s = .next t ∧
      t.resp = some (.bool (!level)) ∧
      t.chan c = { s.chan c with
        ld := { (s.chan c).ld with
          sda := .released
          scl := .drivenLow
          trace := (s.chan c).ld.trace ++ writtenByte v level
          answers := rest }
        be := { (s.chan c).be with mode := .idle, sh := 0, idx := 8, ackr := !level } } ∧
      (∀ d, d ≠ c → t.chan d = s.chan d) ∧ t.sq = s.sq ∧ t.fault = s.fault) ∧
    ∀ n, n < 9 → ∃ u, execAll (.bwrite c v :: (later.take n).map (.bwrite c)) s = .next u ∧
      u.resp = some (.bool false)

/-- BREAD call by call (40_bit_engine.md R136, R143): the latch; a data bit sampled into bit 0; the ACK the
first call asked for. -/
def Obligations.BreadCallByCall : Prop :=
  ∀ (c : Chan) (a : Bool) (s : State), (s.chan c).te.st = .idle →
    ((s.chan c).be.mode = .idle →
      exec (.bread c a) s = .next { s with
        chans := s.chans.set c { s.chan c with
          ld := { (s.chan c).ld with
            sda := .released
            trace := (s.chan c).ld.trace ++ [.release .sda] }
          be := { (s.chan c).be with mode := .reading, sh := 0, idx := 0, acks := a } }
        resp := some (.u8 0) }) ∧
    ((s.chan c).be.mode = .reading → (s.chan c).be.idx.val ≤ 7 → (s.chan c).ld.sda = .released →
      ∃ (b : Bool) (t : State), exec (.bread c a) s = .next t ∧
        t.resp = some (.u8 ((s.chan c).be.sh <<< 1 ||| (BitVec.ofBool b).setWidth 8)) ∧
        (∀ x rest, (s.chan c).ld.answers = x :: rest → b = x ∧ (t.chan c).ld.answers = rest) ∧
        (t.chan c).ld.sda = .released ∧ (t.chan c).ld.scl = .drivenLow ∧
        (t.chan c).ld.trace = (s.chan c).ld.trace ++ takeBitEvents b ∧
        (t.chan c).be = { (s.chan c).be with
          sh := (s.chan c).be.sh <<< 1 ||| (BitVec.ofBool b).setWidth 8
          idx := (s.chan c).be.idx + 1 } ∧
        (t.chan c).te = (s.chan c).te ∧ (∀ d, d ≠ c → t.chan d = s.chan d) ∧ t.sq = s.sq ∧
        t.fault = s.fault ∧ t.cmds = s.cmds ∧ t.timer = s.timer ∧ t.draws = s.draws) ∧
    ((s.chan c).be.mode = .reading → (s.chan c).be.idx.val = 8 →
      exec (.bread c a) s = .next { s with
        chans := s.chans.set c { s.chan c with
          ld := { (s.chan c).ld with
            sda := if (s.chan c).be.acks then .drivenLow else .released
            scl := .drivenLow
            trace := (s.chan c).ld.trace ++ sendBitEvents (!(s.chan c).be.acks) }
          be := { (s.chan c).be with mode := .idle } }
        resp := some (.u8 (s.chan c).be.sh) })

/-- Ten BREADs read one byte (40_bit_engine.md R136): the eight bits the environment answers, the first in
bit 7, then the ACK or NACK of the first call, whatever the later calls ask for. -/
def Obligations.TenBreadsReadAByte : Prop :=
  ∀ (c : Chan) (a : Bool) (later : List Bool) (v : Byte) (rest : List Bool) (s : State),
    (s.chan c).te.st = .idle → (s.chan c).be.mode = .idle → later.length = 9 →
    (s.chan c).ld.answers = msbFirst v ++ rest →
    ∃ t, execAll (.bread c a :: later.map (.bread c)) s = .next t ∧
      t.resp = some (.u8 v) ∧
      t.chan c = { s.chan c with
        ld := { (s.chan c).ld with
          sda := if a then .drivenLow else .released
          scl := .drivenLow
          trace := (s.chan c).ld.trace ++ readByteEvents v a
          answers := rest }
        be := { (s.chan c).be with mode := .idle, sh := v, idx := 8, acks := a } } ∧
      (∀ d, d ≠ c → t.chan d = s.chan d) ∧ t.sq = s.sq ∧ t.fault = s.fault

/-- BRECOVER and TRECOVER, case by case of the bus's answers (40_bit_engine.md R137, R144): SCL low; both
lines high; ten pulses and a stop, then SCL low; ten pulses and a stop, then SDA as sampled. -/
def Obligations.RecoveryByAnswers : Prop :=
  ∀ (c : Chan) (i : Instr) (s : State), i = .brecover c ∨ i = .trecover c →
    (s.chan c).te.st = .idle → (s.chan c).be.mode = .idle →
    ∀ (rest : List Bool) (ev : List BusEvent) (r : Bool),
      ((s.chan c).ld.answers = false :: rest ∧ r = false ∧
          ev = [.sample .scl false]) ∨
      ((s.chan c).ld.answers = true :: true :: rest ∧ r = true ∧
          ev = [.sample .scl true, .sample .sda true]) ∨
      ((s.chan c).ld.answers = true :: false :: false :: rest ∧ r = false ∧
          ev = [.sample .scl true, .sample .sda false] ++ pulseEvents 10 ++ stopEvents ++
            [.sample .scl false]) ∨
      ((s.chan c).ld.answers = true :: false :: true :: r :: rest ∧
          ev = [.sample .scl true, .sample .sda false] ++ pulseEvents 10 ++ stopEvents ++
            [.sample .scl true, .sample .sda r]) →
      exec i s = .next { s with
        chans := s.chans.set c { s.chan c with ld := { (s.chan c).ld with
          sda := .released
          scl := .released
          trace := (s.chan c).ld.trace ++ [.release .scl, .release .sda, .settle] ++ ev
          answers := rest } }
        resp := some (.bool r) }

/-- On any bus BRECOVER and TRECOVER complete, leave both lines released, take 1 to 4 samples and write no
engine field (40_bit_engine.md R137). -/
def Obligations.RecoveryOnAnyBus : Prop :=
  ∀ (c : Chan) (i : Instr) (s : State), i = .brecover c ∨ i = .trecover c →
    (s.chan c).te.st = .idle → (s.chan c).be.mode = .idle →
    ∃ (r : Bool) (ev : List BusEvent) (t : State), exec i s = .next t ∧ t.resp = some (.bool r) ∧
      (t.chan c).ld.sda = .released ∧ (t.chan c).ld.scl = .released ∧
      (t.chan c).ld.trace = (s.chan c).ld.trace ++ ev ∧
      1 ≤ (ev.filter isSample).length ∧ (ev.filter isSample).length ≤ 4 ∧
      (t.chan c).be = (s.chan c).be ∧ (t.chan c).te = (s.chan c).te ∧
      (∀ d, d ≠ c → t.chan d = s.chan d) ∧ t.sq = s.sq ∧ t.fault = s.fault ∧ t.cmds = s.cmds ∧
      t.timer = s.timer ∧ t.draws = s.draws

/-- BREADY (40_bit_engine.md R145), with its encoding: no guard, no event, no field written. -/
def Obligations.BreadyResponds : Prop :=
  ∀ (c : Chan) (s : State),
    decode (rowWord 0x06 c) = some (.bready c) ∧
    exec (.bready c) s = .next { s with resp := some (.bool (decide ((s.chan c).be.mode = .idle))) }

/-! ## TransactionEngine -/

/-- TREQWR and TREQRD (41_transaction_engine.md R164 to R167): BusBusy, InvalidWidth, BitEngineBusy in that
order, else acceptance with no bus event. A write latches the value, a read leaves `wval`. -/
def Obligations.RequestAcceptance : Prop :=
  ∀ (c : Chan) (w : BitVec 2) (reg : Byte) (v : BitVec 16) (s : State),
    ((s.chan c).te.st ≠ .idle →
      exec (.treqwr c w reg v) s = .next { s with resp := some (.bool false) } ∧
      exec (.treqrd c w reg) s = .next { s with resp := some (.bool false) }) ∧
    ((s.chan c).te.st = .idle →
      (w.toNat ≥ 2 → exec (.treqwr c w reg v) s = .next { s with resp := some (.bool false) }) ∧
      (w.toNat = 3 → exec (.treqrd c w reg) s = .next { s with resp := some (.bool false) }) ∧
      ((s.chan c).be.mode ≠ .idle →
        (w.toNat < 2 →
          exec (.treqwr c w reg v) s = .next { s with fault := some .bitEngineBusy, resp := none }) ∧
        (w.toNat < 3 →
          exec (.treqrd c w reg) s = .next { s with fault := some .bitEngineBusy, resp := none })) ∧
      ((s.chan c).be.mode = .idle →
        (∀ k, (w = 0 ∧ k = .write8) ∨ (w = 1 ∧ k = .write16) →
          exec (.treqwr c w reg v) s = .next { s with
            chans := s.chans.set c (requested (s.chan c) (.write k) reg v)
            resp := some (.bool true) }) ∧
        (∀ k, (w = 0 ∧ k = .read8) ∨ (w = 1 ∧ k = .read16) ∨ (w = 2 ∧ k = .read24) →
          exec (.treqrd c w reg) s = .next { s with
            chans := s.chans.set c (requested (s.chan c) (.read k) reg (s.chan c).te.wval)
            resp := some (.bool true) })))

/-- TTICK in the states Idle, Start, Restart and Stop (41_transaction_engine.md R171, R172): one whole
condition, or nothing, and the next state. -/
def Obligations.TtickConditions : Prop :=
  ∀ (c : Chan) (s : State) (ld : LineDriver) (next : TState),
    ((s.chan c).te.st = .idle ∧ next = .idle ∧ ld = (s.chan c).ld) ∨
    ((∃ k, (s.chan c).te.st = .start k ∧ next = .addr k) ∧
      ld = { (s.chan c).ld with
        sda := .drivenLow, scl := .drivenLow, trace := (s.chan c).ld.trace ++ startEvents }) ∨
    ((∃ k, (s.chan c).te.st = .restart k ∧ next = .addr2 k) ∧
      ld = { (s.chan c).ld with
        sda := .drivenLow, scl := .drivenLow, trace := (s.chan c).ld.trace ++ startEvents }) ∨
    ((∃ k, (s.chan c).te.st = .stop k ∧ next = .idle) ∧
      ld = { (s.chan c).ld with
        sda := .released, scl := .released, trace := (s.chan c).ld.trace ++ stopEvents }) →
    ∃ t, exec (.ttick c) s = .next t ∧ t.resp = some (.bool (decide (next ≠ .idle))) ∧
      (t.chan c).ld = ld ∧ (t.chan c).be = (s.chan c).be ∧ (t.chan c).te.st = next ∧
      SameRegisters (t.chan c).te (s.chan c).te ∧ TickFrame c s t

/-- TTICK inside a byte (41_transaction_engine.md R172): the state stays, the response is busy, and the
BitEngine makes the byte's next call (40_bit_engine.md R135, R136). -/
def Obligations.TtickInsideAByte : Prop :=
  ∀ (c : Chan) (s : State),
    (∀ b, byteToSend c (s.chan c).te = some b →
      ((s.chan c).be.mode = .idle →
        ∃ t, exec (.ttick c) s = .next t ∧ t.resp = some (.bool true) ∧
          (t.chan c).ld = (s.chan c).ld ∧
          (t.chan c).be = { (s.chan c).be with mode := .writing, sh := b, idx := 0, ackr := false } ∧
          (t.chan c).te.st = (s.chan c).te.st ∧ SameRegisters (t.chan c).te (s.chan c).te ∧
          TickFrame c s t) ∧
      ((s.chan c).be.mode = .writing → (s.chan c).be.idx.val ≤ 7 →
        ∃ t, exec (.ttick c) s = .next t ∧ t.resp = some (.bool true) ∧
          (t.chan c).ld = { (s.chan c).ld with
            sda := if (s.chan c).be.sh.getLsbD 7 then .released else .drivenLow
            scl := .drivenLow
            trace := (s.chan c).ld.trace ++ sendBitEvents ((s.chan c).be.sh.getLsbD 7) } ∧
          (t.chan c).be = { (s.chan c).be with
            sh := (s.chan c).be.sh <<< 1, idx := (s.chan c).be.idx + 1 } ∧
          (t.chan c).te.st = (s.chan c).te.st ∧ SameRegisters (t.chan c).te (s.chan c).te ∧
          TickFrame c s t)) ∧
    (∀ d, (s.chan c).te.st = .rdata d →
      ((s.chan c).be.mode = .idle →
        ∃ t, exec (.ttick c) s = .next t ∧ t.resp = some (.bool true) ∧
          (t.chan c).ld = { (s.chan c).ld with
            sda := .released, trace := (s.chan c).ld.trace ++ [.release .sda] } ∧
          (t.chan c).be = { (s.chan c).be with
            mode := .reading, sh := 0, idx := 0, acks := !finalByte d } ∧
          (t.chan c).te.st = (s.chan c).te.st ∧ SameRegisters (t.chan c).te (s.chan c).te ∧
          TickFrame c s t) ∧
      ((s.chan c).be.mode = .reading → (s.chan c).be.idx.val ≤ 7 → (s.chan c).ld.sda = .released →
        ∃ (b : Bool) (t : State), exec (.ttick c) s = .next t ∧ t.resp = some (.bool true) ∧
          (∀ x rest, (s.chan c).ld.answers = x :: rest → b = x) ∧
          (t.chan c).ld.sda = .released ∧ (t.chan c).ld.scl = .drivenLow ∧
          (t.chan c).ld.trace = (s.chan c).ld.trace ++ takeBitEvents b ∧
          (t.chan c).be = { (s.chan c).be with
            sh := (s.chan c).be.sh <<< 1 ||| (BitVec.ofBool b).setWidth 8
            idx := (s.chan c).be.idx + 1 } ∧
          (t.chan c).te.st = (s.chan c).te.st ∧ SameRegisters (t.chan c).te (s.chan c).te ∧
          TickFrame c s t))

/-- The end of a written byte (41_transaction_engine.md R168, R171): `ack` takes the ACK result, a NACK sets
`err`, which is never cleared, and the state goes where R171 says; an acknowledged read address byte clears
`acc`. The end of a read byte sets neither flag. -/
def Obligations.NackHandling : Prop :=
  (∀ (c : Chan) (s t : State), exec (.ttick c) s = .next t → (s.chan c).te.err = true →
    (t.chan c).te.err = true) ∧
  ∀ (c : Chan) (s : State), (s.chan c).be.idx.val = 8 →
    (∀ yes no, nextWithAck (s.chan c).te.st = some yes → nextWithNack (s.chan c).te.st = some no →
      (s.chan c).be.mode = .writing →
      ∃ (b : Bool) (t : State), exec (.ttick c) s = .next t ∧ t.resp = some (.bool true) ∧
        (∀ x rest, (s.chan c).ld.answers = x :: rest → b = x) ∧
        (t.chan c).ld.sda = .released ∧ (t.chan c).ld.scl = .drivenLow ∧
        (t.chan c).ld.trace = (s.chan c).ld.trace ++ .release .sda :: takeBitEvents b ∧
        (t.chan c).be = { (s.chan c).be with ackr := !b, mode := .idle } ∧
        (t.chan c).te.st = (if b then no else yes) ∧
        (t.chan c).te.ack = !b ∧ (t.chan c).te.err = ((s.chan c).te.err || b) ∧
        (t.chan c).te.reg = (s.chan c).te.reg ∧ (t.chan c).te.wval = (s.chan c).te.wval ∧
        (t.chan c).te.val = (s.chan c).te.val ∧ (t.chan c).te.vvalid = (s.chan c).te.vvalid ∧
        ((∃ k, (s.chan c).te.st = .addr2 k) → b = false → (t.chan c).te.acc = 0) ∧
        ((∀ k, (s.chan c).te.st ≠ .addr2 k) ∨ b = true → (t.chan c).te.acc = (s.chan c).te.acc) ∧
        TickFrame c s t) ∧
    (∀ d, (s.chan c).te.st = .rdata d → (s.chan c).be.mode = .reading →
      ∃ t, exec (.ttick c) s = .next t ∧ (t.chan c).te.ack = (s.chan c).te.ack ∧
        (t.chan c).te.err = (s.chan c).te.err)

/-- The end of a read byte (41_transaction_engine.md R162, R170, R171, R172): the byte shifted into `acc`,
ACK sent for more and NACK for the last, and with the last byte `val` and `vvalid`. -/
def Obligations.ReadByteEnds : Prop :=
  ∀ (c : Chan) (s : State) (d : RData), (s.chan c).te.st = .rdata d → (s.chan c).be.mode = .reading →
    (s.chan c).be.idx.val = 8 →
    ∃ t, exec (.ttick c) s = .next t ∧ t.resp = some (.bool true) ∧
      (t.chan c).ld = { (s.chan c).ld with
        sda := if (s.chan c).be.acks then .drivenLow else .released
        scl := .drivenLow
        trace := (s.chan c).ld.trace ++ sendBitEvents (!(s.chan c).be.acks) } ∧
      (t.chan c).be = { (s.chan c).be with mode := .idle } ∧
      (t.chan c).te.st = nextRead d ∧
      (t.chan c).te.acc.toNat = ((s.chan c).te.acc.toNat * 256 + (s.chan c).be.sh.toNat) % 2 ^ 24 ∧
      (t.chan c).te.val = (if finalByte d then (t.chan c).te.acc else (s.chan c).te.val) ∧
      (t.chan c).te.vvalid = ((s.chan c).te.vvalid || finalByte d) ∧
      (t.chan c).te.reg = (s.chan c).te.reg ∧ (t.chan c).te.wval = (s.chan c).te.wval ∧
      (t.chan c).te.ack = (s.chan c).te.ack ∧ (t.chan c).te.err = (s.chan c).te.err ∧ TickFrame c s t

/-- The timing sample (41_transaction_engine.md R172, 70_reset_and_hazards.md R317): every TTICK that ends
without a fault, in Idle too, records its duration and the state it ran where the duration is strictly larger
than the maximum. -/
def Obligations.TtickRecordsTime : Prop :=
  ∀ (c : Chan) (s t : State), s.fault = none → exec (.ttick c) s = .next t → t.fault = none →
    let d : Config.TimerWord :=
      BitVec.ofNat Config.timerBits s.timer.read.next - BitVec.ofNat Config.timerBits s.timer.next
    ((s.chan c).te.tmax < d →
      (t.chan c).te.tmax = d ∧ (t.chan c).te.tid = (s.chan c).te.st ∧ (t.chan c).te.tvalid = true) ∧
    (¬ (s.chan c).te.tmax < d →
      (t.chan c).te.tmax = (s.chan c).te.tmax ∧ (t.chan c).te.tid = (s.chan c).te.tid ∧
      (t.chan c).te.tvalid = (s.chan c).te.tvalid) ∧
    t.timer = s.timer.read.read

/-- Tick counts (41_transaction_engine.md R173), from the state an accepted request leaves; `false` is an ACK
at the sample of a written byte. -/
def Obligations.TickCounts : Prop :=
  ∀ (c : Chan) (s : State) (k : Kind), (s.chan c).te.st = .start k → (s.chan c).be.mode = .idle →
    ∀ (n : Nat) (rest : List Bool) (last : Bool),
      ((s.chan c).ld.answers = true :: rest ∧ n = 12) ∨
      ((s.chan c).ld.answers = false :: true :: rest ∧ n = 22) ∨
      ((s.chan c).ld.answers = false :: false :: true :: rest ∧ (∃ r, k = .read r) ∧ n = 33) ∨
      ((s.chan c).ld.answers = false :: false :: last :: rest ∧ k = .write .write8 ∧ n = 32) ∨
      ((s.chan c).ld.answers = false :: false :: false :: last :: rest ∧ k = .write .write16 ∧ n = 42) ∨
      ((s.chan c).ld.answers = false :: false :: true :: last :: rest ∧ k = .write .write16 ∧
        n = match Config.nackMidWrite with
          | .shortCircuit => 32
          | .continueOn => 42) ∨
      ((s.chan c).ld.answers = false :: false :: false :: rest ∧ k = .read .read8 ∧ n = 43) ∨
      ((s.chan c).ld.answers = false :: false :: false :: rest ∧ k = .read .read16 ∧ n = 53) ∨
      ((s.chan c).ld.answers = false :: false :: false :: rest ∧ k = .read .read24 ∧ n = 63) →
      ∃ t, DoneAfter c n s t

/-- Whatever the bus answers, a transaction in progress reaches Idle within 63 ticks and leaves both lines
released (41_transaction_engine.md R174, 10_state.md R52). -/
def Obligations.TransactionTerminates : Prop :=
  ∀ (c : Chan) (s : State), (s.chan c).coherent = true → (s.chan c).te.st ≠ .idle →
    ∃ (n : Nat) (t : State), n ≤ 63 ∧ DoneAfter c n s t ∧ (t.chan c).te.st = .idle ∧
      (t.chan c).ld.sda = .released ∧ (t.chan c).ld.scl = .released ∧ t.fault = s.fault ∧
      (∀ d, d ≠ c → t.chan d = s.chan d)

/-- A write on the wire (30_encoding.md R103, 41_transaction_engine.md R160, R168, R175): start, write address,
register, data bytes most significant first, stop; the final byte's ACK decides `ack` and `err` only. Then
the frames of a NACK before the final byte: on the address, on the register, and on the first data byte of a
Write16 as NACK_MID_WRITE says. -/
def Obligations.WriteOnTheWire : Prop :=
  (∀ (c : Chan) (s : State) (k : WKind) (level : Bool) (rest : List Bool),
    (s.chan c).te.st = .start (.write k) → (s.chan c).be.mode = .idle → (s.chan c).te.err = false →
    (s.chan c).ld.answers = List.replicate (1 + (writeData k (s.chan c).te.wval).length) false ++
      level :: rest →
    ∃ t, DoneAfter c (12 + 10 * (1 + (writeData k (s.chan c).te.wval).length)) s t ∧
      (t.chan c).ld.trace = (s.chan c).ld.trace ++
        writeFrame c (s.chan c).te.reg (writeData k (s.chan c).te.wval) level ∧
      (t.chan c).ld.answers = rest ∧ (t.chan c).ld.sda = .released ∧ (t.chan c).ld.scl = .released ∧
      (t.chan c).te.st = .idle ∧ (t.chan c).te.ack = !level ∧ (t.chan c).te.err = level ∧
      (t.chan c).te.vvalid = (s.chan c).te.vvalid ∧
      (∀ d, d ≠ c → t.chan d = s.chan d) ∧ t.sq = s.sq ∧ t.fault = s.fault) ∧
  ∀ (c : Chan) (s : State) (k : WKind) (rest : List Bool) (n : Nat) (level : Bool) (sent : List BusEvent),
    (s.chan c).te.st = .start (.write k) → (s.chan c).be.mode = .idle →
    ((s.chan c).ld.answers = true :: rest ∧ level = true ∧ n = 12 ∧
        sent = writtenByte (addrWrite c) true) ∨
      ((s.chan c).ld.answers = false :: true :: rest ∧ level = true ∧ n = 22 ∧
        sent = writtenByte (addrWrite c) false ++ writtenByte (s.chan c).te.reg true) ∨
      ((s.chan c).ld.answers = false :: false :: true :: rest ∧ level = true ∧ n = 32 ∧
        k = .write16 ∧ Config.nackMidWrite = .shortCircuit ∧
        sent = writtenByte (addrWrite c) false ++ writtenByte (s.chan c).te.reg false ++
          writtenByte ((s.chan c).te.wval.extractLsb' 8 8) true) ∨
      ((s.chan c).ld.answers = false :: false :: true :: level :: rest ∧ n = 42 ∧
        k = .write16 ∧ Config.nackMidWrite = .continueOn ∧
        sent = writtenByte (addrWrite c) false ++ writtenByte (s.chan c).te.reg false ++
          writtenByte ((s.chan c).te.wval.extractLsb' 8 8) true ++
          writtenByte ((s.chan c).te.wval.extractLsb' 0 8) level) →
    ∃ t, DoneAfter c n s t ∧
      (t.chan c).ld.trace = (s.chan c).ld.trace ++ (startEvents ++ sent ++ stopEvents) ∧
      (t.chan c).ld.answers = rest ∧ (t.chan c).ld.sda = .released ∧ (t.chan c).ld.scl = .released ∧
      (t.chan c).te.st = .idle ∧ (t.chan c).te.ack = !level ∧ (t.chan c).te.err = true ∧
      (t.chan c).te.vvalid = (s.chan c).te.vvalid ∧
      (∀ d, d ≠ c → t.chan d = s.chan d) ∧ t.sq = s.sq ∧ t.fault = s.fault

/-- A read on the wire (30_encoding.md R103, 41_transaction_engine.md R162, R168, R170, R175): start, write
address, register, repeated start, read address, data bytes with ACK but on the last, stop; the value is the
bytes big-endian. Then the frames of a NACK on the address, the register and the read address: the value and
its validity stay as they were. -/
def Obligations.ReadOnTheWire : Prop :=
  (∀ (c : Chan) (s : State) (k : RKind) (data : List Byte) (rest : List Bool),
    (s.chan c).te.st = .start (.read k) → (s.chan c).be.mode = .idle → (s.chan c).te.err = false →
    data.length = (match k with | .read8 => 1 | .read16 => 2 | .read24 => 3) →
    (s.chan c).ld.answers = [false, false, false] ++ data.flatMap msbFirst ++ rest →
    ∃ t, DoneAfter c (33 + 10 * data.length) s t ∧
      (t.chan c).ld.trace = (s.chan c).ld.trace ++ readFrame c (s.chan c).te.reg data ∧
      (t.chan c).ld.answers = rest ∧ (t.chan c).ld.sda = .released ∧ (t.chan c).ld.scl = .released ∧
      (t.chan c).te.st = .idle ∧ (t.chan c).te.vvalid = true ∧
      (t.chan c).te.val.toNat = bigEndian data ∧
      (t.chan c).te.ack = true ∧ (t.chan c).te.err = false ∧
      (∀ d, d ≠ c → t.chan d = s.chan d) ∧ t.sq = s.sq ∧ t.fault = s.fault) ∧
  ∀ (c : Chan) (s : State) (k : RKind) (rest : List Bool) (n : Nat) (sent : List BusEvent),
    (s.chan c).te.st = .start (.read k) → (s.chan c).be.mode = .idle →
    ((s.chan c).ld.answers = true :: rest ∧ n = 12 ∧ sent = writtenByte (addrWrite c) true) ∨
      ((s.chan c).ld.answers = false :: true :: rest ∧ n = 22 ∧
        sent = writtenByte (addrWrite c) false ++ writtenByte (s.chan c).te.reg true) ∨
      ((s.chan c).ld.answers = false :: false :: true :: rest ∧ n = 33 ∧
        sent = writtenByte (addrWrite c) false ++ writtenByte (s.chan c).te.reg false ++ startEvents ++
          writtenByte (addrRead c) true) →
    ∃ t, DoneAfter c n s t ∧
      (t.chan c).ld.trace = (s.chan c).ld.trace ++ (startEvents ++ sent ++ stopEvents) ∧
      (t.chan c).ld.answers = rest ∧ (t.chan c).ld.sda = .released ∧ (t.chan c).ld.scl = .released ∧
      (t.chan c).te.st = .idle ∧ (t.chan c).te.vvalid = (s.chan c).te.vvalid ∧
      (t.chan c).te.val = (s.chan c).te.val ∧ (t.chan c).te.ack = false ∧ (t.chan c).te.err = true ∧
      (∀ d, d ≠ c → t.chan d = s.chan d) ∧ t.sq = s.sq ∧ t.fault = s.fault

/-- No command but a TTICK of the channel or a STICK moves a transaction in progress, touches its lines or its
BitEngine (41_transaction_engine.md R174, 40_bit_engine.md R139). -/
def Obligations.OnlyTicksMoveATransaction : Prop :=
  ∀ (i : Instr) (c : Chan) (s t : State), i ≠ .ttick c → i ≠ .stick → (s.chan c).te.st ≠ .idle →
    exec i s = .next t →
    (t.chan c).ld = (s.chan c).ld ∧ (t.chan c).be = (s.chan c).be ∧ (t.chan c).te.st = (s.chan c).te.st ∧
      SameRegisters (t.chan c).te (s.chan c).te

/-- TVALUE (41_transaction_engine.md R163, R176), with its encoding: the value where it is valid, else a draw.
That the draw is the constant at the count of draws, and the count grows, is the model's choice (log 5). -/
def Obligations.TvalueResponds : Prop :=
  ∀ (c : Chan) (s : State),
    decode (rowWord 0x0B c) = some (.tvalue c) ∧
    ((s.chan c).te.vvalid = true →
      exec (.tvalue c) s = .next { s with resp := some (.u24 (s.chan c).te.val) }) ∧
    ((s.chan c).te.vvalid = false →
      exec (.tvalue c) s = .next { s with
        resp := some (.u24 (Config.drawValue s.draws)), draws := s.draws + 1 })

/-- TACK and TERROR (41_transaction_engine.md R177, R178), with their encodings. -/
def Obligations.TackAndTerrorRespond : Prop :=
  ∀ (c : Chan) (s : State),
    decode (rowWord 0x0C c) = some (.tack c) ∧ decode (rowWord 0x0D c) = some (.terror c) ∧
    exec (.tack c) s = .next { s with resp := some (.bool (s.chan c).te.ack) } ∧
    exec (.terror c) s = .next { s with resp := some (.bool (s.chan c).te.err) }

/-- TTIMINGS (41_transaction_engine.md R179), with its encoding; with no sample, ok = 0 and three draws. That
the three are constants at one count of draws, and the count grows by 1, is the model's choice (log 5). -/
def Obligations.TtimingsResponds : Prop :=
  ∀ (c : Chan) (s : State),
    decode (rowWord 0x0F c) = some (.ttimings c) ∧
    ((s.chan c).te.tvalid = true →
      exec (.ttimings c) s = .next { s with
        resp := some (.timing true (stateId (s.chan c).te.tid) (s.chan c).te.tmax
          (stateName (s.chan c).te.tid)) }) ∧
    ((s.chan c).te.tvalid = false →
      exec (.ttimings c) s = .next { s with
        resp := some (.timing false (Config.drawId s.draws) (Config.drawDur s.draws)
          (Config.drawName s.draws))
        draws := s.draws + 1 })

/-- TRSTTIM (41_transaction_engine.md R180), with its encoding, in any state of the transaction; issued twice,
the second has no further effect; a TTIMINGS after it responds ok = 0. -/
def Obligations.TrsttimClears : Prop :=
  ∀ (c : Chan) (s : State),
    decode (rowWord 0x10 c) = some (.trsttim c) ∧
    exec (.trsttim c) s = .next { s with
      chans := s.chans.set c { s.chan c with te := { (s.chan c).te with tmax := 0, tvalid := false } }
      resp := some .unit } ∧
    execAll [.trsttim c, .trsttim c] s = exec (.trsttim c) s ∧
    ∃ t id dur name, execAll [.trsttim c, .ttimings c] s = .next t ∧
      t.resp = some (.timing false id dur name)

/-! ## AcquisitionSequencer. In the statements about STICK, u is the state its two ticks leave -/

/-- STICK completes (42_acquisition_sequencer.md R220) in every step, where no channel holds a transaction
state that contradicts its BitEngine (10_state.md R51) and no host byte is unfinished (60_exceptions.md
R277): both ticks complete, and the response is the script's step after them. -/
def Obligations.StickCompletes : Prop :=
  ∀ s : State, (∀ c, (s.chan c).coherent = true) →
    (∀ c, (s.chan c).te.st = .idle → (s.chan c).be.mode = .idle) →
    ∃ u t, execAll [.ttick .ch0, .ttick .ch1] s = .next u ∧ u.fault = s.fault ∧
      exec .stick s = .next t ∧ t.resp = some (.u3 (seqStepCode t.sq.step)) ∧
      (∀ c, (t.chan c).ld = (u.chan c).ld ∧ (t.chan c).be = (u.chan c).be) ∧
      t.fault = s.fault ∧ t.cmds = s.cmds

/-- Step 0 (42_acquisition_sequencer.md R220, R221): counts the attempt, takes the time, asks both channels for
the status; a channel with a transaction of the host's in progress keeps it (70_reset_and_hazards.md
R314). -/
def Obligations.StickStep0 : Prop :=
  ∀ s u : State, execAll [.ttick .ch0, .ttick .ch1] s = .next u → u.fault = none → u.sq.step = .s0 →
    (∀ c, (u.chan c).te.st = .idle → (u.chan c).be.mode = .idle) →
    ∃ t, exec .stick s = .next t ∧ t.resp = some (.u3 1) ∧
      t.sq = { u.sq with
        step := .s1
        attempts := u.sq.attempts + 1
        t0 := BitVec.ofNat Config.timerBits u.timer.next } ∧
      (∀ c, (u.chan c).te.st = .idle →
        t.chan c = requested (u.chan c) (.read .read16) Config.regStatus (u.chan c).te.wval) ∧
      (∀ c, (u.chan c).te.st ≠ .idle → t.chan c = u.chan c) ∧
      t.timer = u.timer.read ∧ t.fault = none ∧ t.cmds = u.cmds ∧ t.draws = u.draws

/-- Step 1 (42_acquisition_sequencer.md R222), both channels idle and error-free: the status written back
masked, per channel; where no value is valid the value is a draw v. -/
def Obligations.StickStep1 : Prop :=
  ∀ s u : State, execAll [.ttick .ch0, .ttick .ch1] s = .next u → u.fault = none → u.sq.step = .s1 →
    (∀ c, (u.chan c).te.st = .idle ∧ (u.chan c).be.mode = .idle ∧ (u.chan c).te.err = false) →
    ∃ t, exec .stick s = .next t ∧ t.resp = some (.u3 2) ∧ t.sq = { u.sq with step := .s2 } ∧
      (∀ c, ∃ v : BitVec 24, ((u.chan c).te.vvalid = true → v = (u.chan c).te.val) ∧
        t.chan c = requested (u.chan c) (.write .write16) Config.regStatus
          (v.setWidth 16 &&& Config.statusMask)) ∧
      t.timer = u.timer ∧ t.fault = none ∧ t.cmds = u.cmds ∧
      ((∀ c, (u.chan c).te.vvalid = true) → t.draws = u.draws)

/-- Step 2 (42_acquisition_sequencer.md R223): the trigger written. -/
def Obligations.StickStep2 : Prop :=
  ∀ s u : State, execAll [.ttick .ch0, .ttick .ch1] s = .next u → u.fault = none → u.sq.step = .s2 →
    (∀ c, (u.chan c).te.st = .idle ∧ (u.chan c).be.mode = .idle ∧ (u.chan c).te.err = false) →
    ∃ t, exec .stick s = .next t ∧ t.resp = some (.u3 3) ∧ t.sq = { u.sq with step := .s3 } ∧
      (∀ c, t.chan c = requested (u.chan c) (.write .write8) Config.regCmd (Config.trigger.setWidth 16)) ∧
      t.timer = u.timer ∧ t.fault = none ∧ t.cmds = u.cmds ∧ t.draws = u.draws

/-- Step 3 (42_acquisition_sequencer.md R224, 41_transaction_engine.md R163): the first poll; with a poll
outstanding, a busy answer on either channel polls again, and no busy answer ends the step, whatever the
BitEngines are doing. v is what the channels answer; where no value is valid it is a draw. -/
def Obligations.StickStep3 : Prop :=
  ∀ s u : State, execAll [.ttick .ch0, .ttick .ch1] s = .next u → u.fault = none → u.sq.step = .s3 →
    (∀ c, (u.chan c).te.st = .idle ∧ (u.chan c).te.err = false) →
    ∃ v : PerChan (BitVec 24), (∀ c, (u.chan c).te.vvalid = true → v.get c = (u.chan c).te.val) ∧
      ((∀ c, (u.chan c).be.mode = .idle) →
          u.sq.poll = false ∨ (∃ c, (v.get c).getLsbD 3 = true) →
        ∃ t, exec .stick s = .next t ∧ t.resp = some (.u3 3) ∧ t.sq = { u.sq with poll := true } ∧
          (∀ c, t.chan c = requested (u.chan c) (.read .read8) Config.regCmd (u.chan c).te.wval) ∧
          t.timer = u.timer ∧ t.fault = none ∧ t.cmds = u.cmds ∧
          (u.sq.poll = false ∨ (∀ c, (u.chan c).te.vvalid = true) → t.draws = u.draws)) ∧
      (u.sq.poll = true → (∀ c, (v.get c).getLsbD 3 = false) →
        ∃ t, exec .stick s = .next t ∧ t.resp = some (.u3 4) ∧
          t.sq = { u.sq with poll := false, step := .s4 } ∧ t.chans = u.chans ∧
          t.timer = u.timer ∧ t.fault = none ∧ t.cmds = u.cmds ∧
          ((∀ c, (u.chan c).te.vvalid = true) → t.draws = u.draws))

/-- Step 4 (42_acquisition_sequencer.md R225): the result asked for. -/
def Obligations.StickStep4 : Prop :=
  ∀ s u : State, execAll [.ttick .ch0, .ttick .ch1] s = .next u → u.fault = none → u.sq.step = .s4 →
    (∀ c, (u.chan c).te.st = .idle ∧ (u.chan c).be.mode = .idle ∧ (u.chan c).te.err = false) →
    ∃ t, exec .stick s = .next t ∧ t.resp = some (.u3 5) ∧ t.sq = { u.sq with step := .s5 } ∧
      (∀ c, t.chan c = requested (u.chan c) (.read .read24) Config.regResult (u.chan c).te.wval) ∧
      t.timer = u.timer ∧ t.fault = none ∧ t.cmds = u.cmds ∧ t.draws = u.draws

/-- Step 5 (42_acquisition_sequencer.md R226): the readings stored, the error cleared, the success counted,
the cycle's time kept where it is strictly the longest; where no value is valid it is a draw v. -/
def Obligations.StickStep5 : Prop :=
  ∀ s u : State, execAll [.ttick .ch0, .ttick .ch1] s = .next u → u.fault = none → u.sq.step = .s5 →
    (∀ c, (u.chan c).te.st = .idle ∧ (u.chan c).te.err = false) →
    let d := BitVec.ofNat Config.timerBits u.timer.next - u.sq.t0
    ∃ (v : PerChan (BitVec 24)) (t : State), exec .stick s = .next t ∧ t.resp = some (.u3 0) ∧
      (∀ c, (u.chan c).te.vvalid = true → v.get c = (u.chan c).te.val) ∧
      t.sq = { u.sq with
        step := .s0
        raw := v
        rawvalid := { ch0 := true, ch1 := true }
        err := false
        successes := u.sq.successes + 1
        maxdur := if u.sq.maxdur < d then d else u.sq.maxdur } ∧
      (∀ c, t.chan c = u.chan c) ∧ t.timer = u.timer.read ∧ t.fault = none ∧ t.cmds = u.cmds ∧
      ((∀ c, (u.chan c).te.vvalid = true) → t.draws = u.draws)

/-- In steps 1 to 5 a STICK that leaves a channel busy does nothing but its two ticks (42_acquisition_sequencer.md
R220, R228). -/
def Obligations.StickWaitsForBoth : Prop :=
  ∀ s u : State, execAll [.ttick .ch0, .ttick .ch1] s = .next u → u.fault = none → u.sq.step ≠ .s0 →
    (∃ c, (u.chan c).te.st ≠ .idle) →
    exec .stick s = .next { u with resp := some (.u3 (seqStepCode u.sq.step)) }

/-- SequenceError (60_exceptions.md R266, 42_acquisition_sequencer.md R229): in steps 1 to 5 an error on
either channel restarts the script; the last good readings stay. -/
def Obligations.StickRestartsOnError : Prop :=
  ∀ s u : State, execAll [.ttick .ch0, .ttick .ch1] s = .next u → u.fault = none → u.sq.step ≠ .s0 →
    (∀ c, (u.chan c).te.st = .idle) → (∃ c, (u.chan c).te.err = true) →
    exec .stick s = .next { u with
      sq := { u.sq with
        err := true, step := .s0, poll := if u.sq.step = .s3 then false else u.sq.poll }
      resp := some (.u3 0) }

/-- SRDPRES (42_acquisition_sequencer.md R231), with its encoding: the last good reading converted, its 24
bits read as two's complement (00_scope.md R11); before the first, a draw. That the draw is the constant at
the count of draws, and the count grows, is the model's choice (log 5). -/
def Obligations.SrdpresResponds : Prop :=
  ∀ (c : Chan) (s : State),
    decode (rowWord 0x19 c) = some (.srdpres c) ∧
    (s.sq.rawvalid.get c = true →
      exec (.srdpres c) s = .next { s with
        resp := some (.reading (Config.conv c (s.sq.raw.get c).toInt)) }) ∧
    (s.sq.rawvalid.get c = false →
      exec (.srdpres c) s = .next { s with
        resp := some (.reading (Config.drawReading s.draws)), draws := s.draws + 1 })

/-- SRDSEC (42_acquisition_sequencer.md R232), with its encoding: always Fault(Unmodelled), nothing else
written. -/
def Obligations.SrdsecIsUnmodelled : Prop :=
  ∀ (c : Chan) (s : State),
    decode (rowWord 0x1A c) = some (.srdsec c) ∧
    exec (.srdsec c) s = .next { s with fault := some .unmodelled, resp := none }

/-- SISERR, SDUR and SSETOK (42_acquisition_sequencer.md R233, R236, R243), with their encodings. -/
def Obligations.SequencerQueriesRespond : Prop :=
  ∀ s : State,
    decode (rowWord 0x1B .ch0) = some .siserr ∧ decode (rowWord 0x1E .ch0) = some .sdur ∧
    decode (rowWord 0x17 .ch0) = some .ssetok ∧
    exec .siserr s = .next { s with resp := some (.bool s.sq.err) } ∧
    exec .sdur s = .next { s with resp := some (.dur s.sq.maxdur) } ∧
    exec .ssetok s = .next { s with resp := some (.bool s.sq.setupok) }

/-- STIMINGS (42_acquisition_sequencer.md R234): the channel with the larger maximum; a tie goes to channel 0;
a channel without a sample loses; with no sample anywhere, ok = 0 and three draws. That the three are
constants at one count of draws, and the count grows by 1, is the model's choice (log 5). -/
def Obligations.StimingsResponds : Prop :=
  ∀ s : State,
    let a := (s.chan .ch0).te
    let b := (s.chan .ch1).te
    decode (rowWord 0x1C .ch0) = some .stimings ∧
    (a.tvalid = true → b.tvalid = false ∨ b.tmax.toNat ≤ a.tmax.toNat →
      exec .stimings s = .next { s with
        resp := some (.timing true (stateId a.tid) a.tmax (stateName a.tid)) }) ∧
    (b.tvalid = true → a.tvalid = false ∨ a.tmax.toNat < b.tmax.toNat →
      exec .stimings s = .next { s with
        resp := some (.timing true (stateId b.tid) b.tmax (stateName b.tid)) }) ∧
    (a.tvalid = false → b.tvalid = false →
      exec .stimings s = .next { s with
        resp := some (.timing false (Config.drawId s.draws) (Config.drawDur s.draws)
          (Config.drawName s.draws))
        draws := s.draws + 1 })

/-- SSTATS (42_acquisition_sequencer.md R235), with its encoding; the difference is modulo
2^COUNTER_BITS. -/
def Obligations.SstatsResponds : Prop :=
  ∀ s : State,
    decode (rowWord 0x1D .ch0) = some .sstats ∧
    exec .sstats s = .next { s with
      resp := some (.stats (s.sq.attempts - s.sq.successes) s.sq.attempts) }

/-- SSETUP begins (42_acquisition_sequencer.md R240; the split into steps is the model's, log 9): with both
channels at rest it recovers each exactly as BRECOVER does, starts the first try, and has no response
yet. -/
def Obligations.SetupBegins : Prop :=
  ∀ s : State, (∀ c, (s.chan c).te.st = .idle ∧ (s.chan c).be.mode = .idle) →
    ∃ t, exec .ssetup s = .next t ∧ t.resp = none ∧
      t.sq = { s.sq with sactive := true, stries := 1 } ∧
      (∀ c, (t.chan c).ld.sda = .released ∧ (t.chan c).ld.scl = .released ∧
        (t.chan c).be = (s.chan c).be ∧ (t.chan c).te = (s.chan c).te ∧
        ∀ b, exec (.brecover c) s = .next b → t.chan c = b.chan c) ∧
      t.fault = s.fault ∧ t.cmds = s.cmds ∧ t.timer = s.timer ∧ t.draws = s.draws

/-- SSETUP goes on and ends (42_acquisition_sequencer.md R240 to R242; the split into steps is the model's,
log 9): each step inside it is one STICK, its response discarded; when the script is back at step 0, setup
ends if the cycle was good or the tenth, else the next try begins. -/
def Obligations.SetupGoesOnAndEnds : Prop :=
  ∀ s u : State, s.fault = none → s.sq.sactive = true → exec .stick s = .next u → u.fault = none →
    (u.sq.step ≠ .s0 → step s = .next { u with resp := s.resp }) ∧
    (u.sq.step = .s0 → u.sq.err = false ∨ u.sq.stries = 10 →
      step s = .next { u with
        sq := { u.sq with setupok := !u.sq.err, sactive := false }
        resp := some (.bool (!u.sq.err)) }) ∧
    (u.sq.step = .s0 → u.sq.err = true → u.sq.stries ≠ 10 →
      step s = .next { u with sq := { u.sq with stries := u.sq.stries + 1 }, resp := s.resp })

/-- SSETUP's internal STICKs never fault (60_exceptions.md R277), in every state of the invariant. -/
def Obligations.SetupNeverFaultsInside : Prop :=
  ∀ s : State, s.Inv → s.fault = none → s.sq.sactive = true → ∃ t, step s = .next t ∧ t.fault = none

/-! ## Whole-machine rules -/

/-- The channels are independent (10_state.md R49): a command of channel c leaves the other channel alone, and
does and responds the same whatever the other channel holds. -/
def Obligations.ChannelsAreIndependent : Prop :=
  ∀ (i : Instr) (c d : Chan) (s t : State) (x : Channel), channelOf i = some c → d ≠ c →
    exec i s = .next t →
    t.chan d = s.chan d ∧
    exec i { s with chans := s.chans.set d x } = .next { t with chans := t.chans.set d x }

/-- The bus traces only grow (20_memory.md R74), and the timer's count never decreases (00_scope.md R15). -/
def Obligations.TracesOnlyGrow : Prop :=
  ∀ s t : State, step s = .next t →
    (∀ c, ∃ ev, (t.chan c).ld.trace = (s.chan c).ld.trace ++ ev) ∧ s.timer.count ≤ t.timer.count

/-- No command but STICK and SSETUP writes a field of the sequencer (10_state.md R48), and a reading once
taken stays valid (10_state.md R47). -/
def Obligations.OnlyTheScriptWritesTheSequencer : Prop :=
  ∀ (i : Instr) (s t : State), exec i s = .next t →
    (i ≠ .stick → i ≠ .ssetup → t.sq = s.sq) ∧
    ∀ c, s.sq.rawvalid.get c = true → t.sq.rawvalid.get c = true

/-- When the host issues no TransactionEngine or BitEngine command of its own, step 0 finds both channels
idle, so its requests are always accepted (10_state.md R53): so it is at reset, every other command and every
step inside SSETUP keeps it so, and the requests are accepted. -/
def Obligations.ScriptFindsChannelsIdle : Prop :=
  State.reset.SeqRest ∧
  (∀ (i : Instr) (s t : State), hostDrives i = false → s.SeqRest → exec i s = .next t → t.SeqRest) ∧
  (∀ s t : State, s.SeqRest → s.sq.sactive = true → step s = .next t → t.SeqRest) ∧
  ∀ s : State, s.SeqRest → s.sq.step = .s0 →
    ∃ t, exec .stick s = .next t ∧ t.fault = s.fault ∧
      ∀ c, (t.chan c).te.st = .start (.read .read16) ∧ (t.chan c).te.reg = Config.regStatus

/-- The error result of a request (60_exceptions.md R262, R263, R280): BusBusy before InvalidWidth; a supported
width on an idle engine reports none, whether the request is accepted or faults on an unfinished host byte.
That error kinds are the value of a function, and that a request that faults reports none, is the model's
choice (log 19). -/
def Obligations.RequestErrorPriority : Prop :=
  ∀ (c : Chan) (w : BitVec 2) (reg : Byte) (v : BitVec 16) (s : State),
    ((s.chan c).te.st ≠ .idle →
      errorKind (.treqwr c w reg v) s = .busBusy ∧ errorKind (.treqrd c w reg) s = .busBusy) ∧
    ((s.chan c).te.st = .idle →
      (w.toNat ≥ 2 → errorKind (.treqwr c w reg v) s = .invalidWidth) ∧
      (w.toNat = 3 → errorKind (.treqrd c w reg) s = .invalidWidth) ∧
      (w.toNat < 2 → errorKind (.treqwr c w reg v) s = .none) ∧
      (w.toNat < 3 → errorKind (.treqrd c w reg) s = .none))
end

