-- ==== Sys2Proof/Laws/State.lean ====
section
/-! SUPPORT. One lemma per field per update of the state, so that no later proof unfolds a record
update. -/

namespace Sys2Proof

@[simp] theorem PerChan.get_set_same {α : Type} (p : PerChan α) (c : Chan) (a : α) :
    (p.set c a).get c = a := by cases c <;> rfl

theorem PerChan.get_set_ne {α : Type} (p : PerChan α) {c d : Chan} (a : α) (h : d ≠ c) :
    (p.set c a).get d = p.get d := by cases c <;> cases d <;> first | rfl | exact absurd rfl h

@[simp] theorem PerChan.set_get {α : Type} (p : PerChan α) (c : Chan) : p.set c (p.get c) = p := by
  cases c <;> rfl

@[simp] theorem PerChan.set_set {α : Type} (p : PerChan α) (c : Chan) (a b : α) :
    (p.set c a).set c b = p.set c b := by cases c <;> rfl

theorem PerChan.set_comm {α : Type} (p : PerChan α) {c d : Chan} (a b : α) (h : c ≠ d) :
    (p.set c a).set d b = (p.set d b).set c a := by
  cases c <;> cases d <;> first | rfl | exact absurd rfl h

end Sys2Proof

namespace Sys2Proof.Machine

@[simp] theorem State.chan_setChan (s : State) (c : Chan) (x : Channel) : (s.setChan c x).chan c = x :=
  PerChan.get_set_same _ _ _

theorem State.chan_setChan_ne (s : State) {c d : Chan} (x : Channel) (h : d ≠ c) :
    (s.setChan c x).chan d = s.chan d := PerChan.get_set_ne _ _ h

@[simp] theorem State.chan0_setChan1 (s : State) (x : Channel) :
    (s.setChan .ch1 x).chan .ch0 = s.chan .ch0 := rfl

@[simp] theorem State.chan1_setChan0 (s : State) (x : Channel) :
    (s.setChan .ch0 x).chan .ch1 = s.chan .ch1 := rfl

@[simp] theorem State.setChan_chan (s : State) (c : Chan) : s.setChan c (s.chan c) = s := by
  simp [State.setChan, State.chan]

@[simp] theorem State.setChan_setChan (s : State) (c : Chan) (x y : Channel) :
    (s.setChan c x).setChan c y = s.setChan c y := by simp [State.setChan]

@[simp] theorem State.chan_setLines (s : State) (c : Chan) (l : LineDriver) :
    (s.setLines c l).chan c = { s.chan c with ld := l } := State.chan_setChan _ _ _

theorem State.chan_setLines_ne (s : State) {c d : Chan} (l : LineDriver) (h : d ≠ c) :
    (s.setLines c l).chan d = s.chan d := State.chan_setChan_ne _ _ h

@[simp] theorem State.chan_recordTime (s : State) (c : Chan) (st : TState) (d : Config.TimerWord) :
    (s.recordTime c st d).chan c = { s.chan c with te := (s.chan c).te.recordTime st d } :=
  State.chan_setChan _ _ _

theorem State.chan_recordTime_ne (s : State) {c d : Chan} (st : TState) (t : Config.TimerWord)
    (h : d ≠ c) : (s.recordTime c st t).chan d = s.chan d := State.chan_setChan_ne _ _ h

@[simp] theorem State.sq_setChan (s : State) (c : Chan) (x : Channel) :
    (s.setChan c x).sq = s.sq := rfl

@[simp] theorem State.fault_setChan (s : State) (c : Chan) (x : Channel) :
    (s.setChan c x).fault = s.fault := rfl

@[simp] theorem State.resp_setChan (s : State) (c : Chan) (x : Channel) :
    (s.setChan c x).resp = s.resp := rfl

@[simp] theorem State.cmds_setChan (s : State) (c : Chan) (x : Channel) :
    (s.setChan c x).cmds = s.cmds := rfl

@[simp] theorem State.timer_setChan (s : State) (c : Chan) (x : Channel) :
    (s.setChan c x).timer = s.timer := rfl

@[simp] theorem State.draws_setChan (s : State) (c : Chan) (x : Channel) :
    (s.setChan c x).draws = s.draws := rfl

@[simp] theorem State.sq_setLines (s : State) (c : Chan) (l : LineDriver) :
    (s.setLines c l).sq = s.sq := rfl

@[simp] theorem State.fault_setLines (s : State) (c : Chan) (l : LineDriver) :
    (s.setLines c l).fault = s.fault := rfl

@[simp] theorem State.resp_setLines (s : State) (c : Chan) (l : LineDriver) :
    (s.setLines c l).resp = s.resp := rfl

@[simp] theorem State.cmds_setLines (s : State) (c : Chan) (l : LineDriver) :
    (s.setLines c l).cmds = s.cmds := rfl

@[simp] theorem State.timer_setLines (s : State) (c : Chan) (l : LineDriver) :
    (s.setLines c l).timer = s.timer := rfl

@[simp] theorem State.draws_setLines (s : State) (c : Chan) (l : LineDriver) :
    (s.setLines c l).draws = s.draws := rfl

@[simp] theorem State.sq_recordTime (s : State) (c : Chan) (st : TState) (d : Config.TimerWord) :
    (s.recordTime c st d).sq = s.sq := rfl

@[simp] theorem State.fault_recordTime (s : State) (c : Chan) (st : TState) (d : Config.TimerWord) :
    (s.recordTime c st d).fault = s.fault := rfl

@[simp] theorem State.resp_recordTime (s : State) (c : Chan) (st : TState) (d : Config.TimerWord) :
    (s.recordTime c st d).resp = s.resp := rfl

@[simp] theorem State.cmds_recordTime (s : State) (c : Chan) (st : TState) (d : Config.TimerWord) :
    (s.recordTime c st d).cmds = s.cmds := rfl

@[simp] theorem State.timer_recordTime (s : State) (c : Chan) (st : TState) (d : Config.TimerWord) :
    (s.recordTime c st d).timer = s.timer := rfl

@[simp] theorem State.draws_recordTime (s : State) (c : Chan) (st : TState) (d : Config.TimerWord) :
    (s.recordTime c st d).draws = s.draws := rfl

@[simp] theorem State.chans_readTimer (s : State) :
    (s.readTimer).chans = s.chans := rfl

@[simp] theorem State.sq_readTimer (s : State) :
    (s.readTimer).sq = s.sq := rfl

@[simp] theorem State.fault_readTimer (s : State) :
    (s.readTimer).fault = s.fault := rfl

@[simp] theorem State.resp_readTimer (s : State) :
    (s.readTimer).resp = s.resp := rfl

@[simp] theorem State.cmds_readTimer (s : State) :
    (s.readTimer).cmds = s.cmds := rfl

@[simp] theorem State.timer_readTimer (s : State) :
    (s.readTimer).timer = s.timer.read := rfl

@[simp] theorem State.draws_readTimer (s : State) :
    (s.readTimer).draws = s.draws := rfl

@[simp] theorem State.chan_readTimer (s : State) (e : Chan) :
    (s.readTimer).chan e = s.chan e := rfl

@[simp] theorem State.chans_drawIf (s : State) (b : Bool) :
    (s.drawIf b).chans = s.chans := rfl

@[simp] theorem State.sq_drawIf (s : State) (b : Bool) :
    (s.drawIf b).sq = s.sq := rfl

@[simp] theorem State.fault_drawIf (s : State) (b : Bool) :
    (s.drawIf b).fault = s.fault := rfl

@[simp] theorem State.resp_drawIf (s : State) (b : Bool) :
    (s.drawIf b).resp = s.resp := rfl

@[simp] theorem State.cmds_drawIf (s : State) (b : Bool) :
    (s.drawIf b).cmds = s.cmds := rfl

@[simp] theorem State.timer_drawIf (s : State) (b : Bool) :
    (s.drawIf b).timer = s.timer := rfl

@[simp] theorem State.draws_drawIf (s : State) (b : Bool) :
    (s.drawIf b).draws = if b then s.draws + 1 else s.draws := rfl

@[simp] theorem State.chan_drawIf (s : State) (b : Bool) (e : Chan) :
    (s.drawIf b).chan e = s.chan e := rfl

@[simp] theorem State.chans_afterLastValue (s : State) (c : Chan) :
    (s.afterLastValue c).chans = s.chans := rfl

@[simp] theorem State.sq_afterLastValue (s : State) (c : Chan) :
    (s.afterLastValue c).sq = s.sq := rfl

@[simp] theorem State.fault_afterLastValue (s : State) (c : Chan) :
    (s.afterLastValue c).fault = s.fault := rfl

@[simp] theorem State.resp_afterLastValue (s : State) (c : Chan) :
    (s.afterLastValue c).resp = s.resp := rfl

@[simp] theorem State.cmds_afterLastValue (s : State) (c : Chan) :
    (s.afterLastValue c).cmds = s.cmds := rfl

@[simp] theorem State.timer_afterLastValue (s : State) (c : Chan) :
    (s.afterLastValue c).timer = s.timer := rfl

@[simp] theorem State.chan_afterLastValue (s : State) (c : Chan) (e : Chan) :
    (s.afterLastValue c).chan e = s.chan e := rfl

@[simp] theorem State.chans_respond (s : State) (r : Response) :
    (s.respond r).chans = s.chans := rfl

@[simp] theorem State.sq_respond (s : State) (r : Response) :
    (s.respond r).sq = s.sq := rfl

@[simp] theorem State.fault_respond (s : State) (r : Response) :
    (s.respond r).fault = s.fault := rfl

@[simp] theorem State.resp_respond (s : State) (r : Response) :
    (s.respond r).resp = some r := rfl

@[simp] theorem State.cmds_respond (s : State) (r : Response) :
    (s.respond r).cmds = s.cmds := rfl

@[simp] theorem State.timer_respond (s : State) (r : Response) :
    (s.respond r).timer = s.timer := rfl

@[simp] theorem State.draws_respond (s : State) (r : Response) :
    (s.respond r).draws = s.draws := rfl

@[simp] theorem State.chan_respond (s : State) (r : Response) (e : Chan) :
    (s.respond r).chan e = s.chan e := rfl

@[simp] theorem State.chans_raise (s : State) (f : Fault) :
    (s.raise f).chans = s.chans := rfl

@[simp] theorem State.sq_raise (s : State) (f : Fault) :
    (s.raise f).sq = s.sq := rfl

@[simp] theorem State.fault_raise (s : State) (f : Fault) :
    (s.raise f).fault = some f := rfl

@[simp] theorem State.resp_raise (s : State) (f : Fault) :
    (s.raise f).resp = none := rfl

@[simp] theorem State.cmds_raise (s : State) (f : Fault) :
    (s.raise f).cmds = s.cmds := rfl

@[simp] theorem State.timer_raise (s : State) (f : Fault) :
    (s.raise f).timer = s.timer := rfl

@[simp] theorem State.draws_raise (s : State) (f : Fault) :
    (s.raise f).draws = s.draws := rfl

@[simp] theorem State.chan_raise (s : State) (f : Fault) (e : Chan) :
    (s.raise f).chan e = s.chan e := rfl

@[simp] theorem State.chans_setStep (s : State) (n : SeqStep) :
    (s.setStep n).chans = s.chans := rfl

@[simp] theorem State.sq_setStep (s : State) (n : SeqStep) :
    (s.setStep n).sq = { s.sq with step := n } := rfl

@[simp] theorem State.fault_setStep (s : State) (n : SeqStep) :
    (s.setStep n).fault = s.fault := rfl

@[simp] theorem State.resp_setStep (s : State) (n : SeqStep) :
    (s.setStep n).resp = s.resp := rfl

@[simp] theorem State.cmds_setStep (s : State) (n : SeqStep) :
    (s.setStep n).cmds = s.cmds := rfl

@[simp] theorem State.timer_setStep (s : State) (n : SeqStep) :
    (s.setStep n).timer = s.timer := rfl

@[simp] theorem State.draws_setStep (s : State) (n : SeqStep) :
    (s.setStep n).draws = s.draws := rfl

@[simp] theorem State.chan_setStep (s : State) (n : SeqStep) (e : Chan) :
    (s.setStep n).chan e = s.chan e := rfl

@[simp] theorem State.chans_setPoll (s : State) (b : Bool) :
    (s.setPoll b).chans = s.chans := rfl

@[simp] theorem State.sq_setPoll (s : State) (b : Bool) :
    (s.setPoll b).sq = { s.sq with poll := b } := rfl

@[simp] theorem State.fault_setPoll (s : State) (b : Bool) :
    (s.setPoll b).fault = s.fault := rfl

@[simp] theorem State.resp_setPoll (s : State) (b : Bool) :
    (s.setPoll b).resp = s.resp := rfl

@[simp] theorem State.cmds_setPoll (s : State) (b : Bool) :
    (s.setPoll b).cmds = s.cmds := rfl

@[simp] theorem State.timer_setPoll (s : State) (b : Bool) :
    (s.setPoll b).timer = s.timer := rfl

@[simp] theorem State.draws_setPoll (s : State) (b : Bool) :
    (s.setPoll b).draws = s.draws := rfl

@[simp] theorem State.chan_setPoll (s : State) (b : Bool) (e : Chan) :
    (s.setPoll b).chan e = s.chan e := rfl

@[simp] theorem State.chans_restart (s : State) :
    (s.restart).chans = s.chans := rfl

@[simp] theorem State.sq_restart (s : State) :
    (s.restart).sq = { s.sq with err := true, step := .s0 } := rfl

@[simp] theorem State.fault_restart (s : State) :
    (s.restart).fault = s.fault := rfl

@[simp] theorem State.resp_restart (s : State) :
    (s.restart).resp = s.resp := rfl

@[simp] theorem State.cmds_restart (s : State) :
    (s.restart).cmds = s.cmds := rfl

@[simp] theorem State.timer_restart (s : State) :
    (s.restart).timer = s.timer := rfl

@[simp] theorem State.draws_restart (s : State) :
    (s.restart).draws = s.draws := rfl

@[simp] theorem State.chan_restart (s : State) (e : Chan) :
    (s.restart).chan e = s.chan e := rfl

@[simp] theorem State.chans_storeReadings (s : State) (v : PerChan (BitVec 24)) :
    (s.storeReadings v).chans = s.chans := rfl

@[simp] theorem State.fault_storeReadings (s : State) (v : PerChan (BitVec 24)) :
    (s.storeReadings v).fault = s.fault := rfl

@[simp] theorem State.resp_storeReadings (s : State) (v : PerChan (BitVec 24)) :
    (s.storeReadings v).resp = s.resp := rfl

@[simp] theorem State.cmds_storeReadings (s : State) (v : PerChan (BitVec 24)) :
    (s.storeReadings v).cmds = s.cmds := rfl

@[simp] theorem State.timer_storeReadings (s : State) (v : PerChan (BitVec 24)) :
    (s.storeReadings v).timer = s.timer := rfl

@[simp] theorem State.draws_storeReadings (s : State) (v : PerChan (BitVec 24)) :
    (s.storeReadings v).draws = s.draws := rfl

@[simp] theorem State.chan_storeReadings (s : State) (v : PerChan (BitVec 24)) (e : Chan) :
    (s.storeReadings v).chan e = s.chan e := rfl

@[simp] theorem State.chans_recordCycle (s : State) (d : Config.TimerWord) :
    (s.recordCycle d).chans = s.chans := rfl

@[simp] theorem State.fault_recordCycle (s : State) (d : Config.TimerWord) :
    (s.recordCycle d).fault = s.fault := rfl

@[simp] theorem State.resp_recordCycle (s : State) (d : Config.TimerWord) :
    (s.recordCycle d).resp = s.resp := rfl

@[simp] theorem State.cmds_recordCycle (s : State) (d : Config.TimerWord) :
    (s.recordCycle d).cmds = s.cmds := rfl

@[simp] theorem State.timer_recordCycle (s : State) (d : Config.TimerWord) :
    (s.recordCycle d).timer = s.timer := rfl

@[simp] theorem State.draws_recordCycle (s : State) (d : Config.TimerWord) :
    (s.recordCycle d).draws = s.draws := rfl

@[simp] theorem State.chan_recordCycle (s : State) (d : Config.TimerWord) (e : Chan) :
    (s.recordCycle d).chan e = s.chan e := rfl

@[simp] theorem State.chans_issue (s : State) (w : Word) :
    (s.issue w).chans = s.chans := rfl

@[simp] theorem State.sq_issue (s : State) (w : Word) :
    (s.issue w).sq = s.sq := rfl

@[simp] theorem State.fault_issue (s : State) (w : Word) :
    (s.issue w).fault = s.fault := rfl

@[simp] theorem State.resp_issue (s : State) (w : Word) :
    (s.issue w).resp = s.resp := rfl

@[simp] theorem State.cmds_issue (s : State) (w : Word) :
    (s.issue w).cmds = w :: s.cmds := rfl

@[simp] theorem State.timer_issue (s : State) (w : Word) :
    (s.issue w).timer = s.timer := rfl

@[simp] theorem State.draws_issue (s : State) (w : Word) :
    (s.issue w).draws = s.draws := rfl

@[simp] theorem State.chan_issue (s : State) (w : Word) (e : Chan) :
    (s.issue w).chan e = s.chan e := rfl

@[simp] theorem State.chans_setupEnd (s : State) :
    (s.setupEnd).chans = s.chans := rfl

@[simp] theorem State.fault_setupEnd (s : State) :
    (s.setupEnd).fault = s.fault := rfl

@[simp] theorem State.resp_setupEnd (s : State) :
    (s.setupEnd).resp = some (.bool (!s.sq.err)) := rfl

@[simp] theorem State.cmds_setupEnd (s : State) :
    (s.setupEnd).cmds = s.cmds := rfl

@[simp] theorem State.timer_setupEnd (s : State) :
    (s.setupEnd).timer = s.timer := rfl

@[simp] theorem State.draws_setupEnd (s : State) :
    (s.setupEnd).draws = s.draws := rfl

@[simp] theorem State.chan_setupEnd (s : State) (e : Chan) :
    (s.setupEnd).chan e = s.chan e := rfl

end Sys2Proof.Machine
end

