-- ==== Sys2Proof/Laws/Ops.lean ====
section
/-! SUPPORT. What each shared operation of Machine/Ops.lean can do: the bus primitives, the timer, draws and
the ways a command ends. -/

namespace Sys2Proof.Machine

/-! ## Bus primitives -/

@[simp] theorem LineDriver.line_put_same (x : LineDriver) (l : Line) (v : LineState) :
    (x.put l v).line l = v := by cases l <;> rfl

theorem LineDriver.line_put_ne (x : LineDriver) {l m : Line} (v : LineState) (h : m ≠ l) :
    (x.put l v).line m = x.line m := by
  cases l <;> cases m <;> first | rfl | exact absurd rfl h

@[simp] theorem LineDriver.sda_put_sda (x : LineDriver) (v : LineState) : (x.put .sda v).sda = v := rfl
@[simp] theorem LineDriver.scl_put_sda (x : LineDriver) (v : LineState) : (x.put .sda v).scl = x.scl := rfl
@[simp] theorem LineDriver.sda_put_scl (x : LineDriver) (v : LineState) : (x.put .scl v).sda = x.sda := rfl
@[simp] theorem LineDriver.scl_put_scl (x : LineDriver) (v : LineState) : (x.put .scl v).scl = v := rfl
@[simp] theorem LineDriver.trace_put (x : LineDriver) (l : Line) (v : LineState) :
    (x.put l v).trace = x.trace ++ [lineEvent l v] := rfl
@[simp] theorem LineDriver.answers_put (x : LineDriver) (l : Line) (v : LineState) :
    (x.put l v).answers = x.answers := rfl
@[simp] theorem LineDriver.samples_put (x : LineDriver) (l : Line) (v : LineState) :
    (x.put l v).samples = x.samples := rfl

@[simp] theorem LineDriver.sda_settle (x : LineDriver) : x.settle.sda = x.sda := rfl
@[simp] theorem LineDriver.scl_settle (x : LineDriver) : x.settle.scl = x.scl := rfl
@[simp] theorem LineDriver.line_settle (x : LineDriver) (l : Line) : x.settle.line l = x.line l := by
  cases l <;> rfl
@[simp] theorem LineDriver.trace_settle (x : LineDriver) : x.settle.trace = x.trace ++ [.settle] := rfl
@[simp] theorem LineDriver.answers_settle (x : LineDriver) : x.settle.answers = x.answers := rfl
@[simp] theorem LineDriver.samples_settle (x : LineDriver) : x.settle.samples = x.samples := rfl

/-- A sample leaves both lines as they are. -/
@[simp] theorem LineDriver.line_sample (x : LineDriver) (c : Chan) (l m : Line) :
    (x.sample c l).2.line m = x.line m := by cases m <;> rfl
@[simp] theorem LineDriver.sda_sample (x : LineDriver) (c : Chan) (l : Line) :
    (x.sample c l).2.sda = x.sda := rfl
@[simp] theorem LineDriver.scl_sample (x : LineDriver) (c : Chan) (l : Line) :
    (x.sample c l).2.scl = x.scl := rfl
@[simp] theorem LineDriver.trace_sample (x : LineDriver) (c : Chan) (l : Line) :
    (x.sample c l).2.trace = x.trace ++ [.sample l (x.sample c l).1] := rfl

/-- A line the block drives low reads low, whatever the environment (00_scope.md R15). -/
theorem LineDriver.sample_drivenLow (x : LineDriver) (c : Chan) (l : Line) (h : x.line l = .drivenLow) :
    (x.sample c l).1 = false := by
  simp [LineDriver.sample, LineDriver.level, h]

/-- A sample of a released line takes the next listed answer. -/
theorem LineDriver.sample_listed (x : LineDriver) (c : Chan) (l : Line) (b : Bool) (rest : List Bool)
    (h : x.line l = .released) (ha : x.answers = b :: rest) :
    x.sample c l = (b, { x with trace := x.trace ++ [.sample l b], answers := rest }) := by
  simp [LineDriver.sample, LineDriver.level, h, ha]

/-- A sample of a released line with no listed answer is the free value of the oracle. -/
theorem LineDriver.sample_free (x : LineDriver) (c : Chan) (l : Line)
    (h : x.line l = .released) (ha : x.answers = []) :
    (x.sample c l).1 = Config.freeSample c x.samples ∧ (x.sample c l).2.samples = x.samples + 1 := by
  simp [LineDriver.sample, LineDriver.level, h, ha]

/-! ## The timer -/

/-- The underlying count never decreases (00_scope.md R15). -/
theorem Timer.count_le_read (t : Timer) : t.count ≤ t.read.count := by
  simp [Timer.read, Timer.next]

/-! ## Ways a command ends -/

@[simp] theorem Ran.bind_done {α β : Type} (a : α) (s : State) (k : α → State → Ran β) :
    (Ran.done a s).bind k = k a s := rfl

@[simp] theorem Ran.bind_raised {α β : Type} (f : Fault) (s : State) (k : α → State → Ran β) :
    (Ran.raised f s : Ran α).bind k = .raised f s := rfl

@[simp] theorem Ran.outcome_done {α : Type} (a : α) (s : State) (r : α → Response) :
    (Ran.done a s).outcome r = .next (s.respond (r a)) := rfl

@[simp] theorem Ran.outcome_raised {α : Type} (f : Fault) (s : State) (r : α → Response) :
    (Ran.raised f s : Ran α).outcome r = .next (s.raise f) := rfl

/-- A bind that ends with a value ran its first part to a value. -/
theorem Ran.bind_eq_done {α β : Type} {r : Ran α} {k : α → State → Ran β} {b : β} {t : State}
    (h : r.bind k = .done b t) : ∃ a s, r = .done a s ∧ k a s = .done b t := by
  cases r with
  | done a s => exact ⟨a, s, rfl, h⟩
  | raised f s => cases h

/-- A bind that ends in a fault faulted in its first part or in its second. -/
theorem Ran.bind_eq_raised {α β : Type} {r : Ran α} {k : α → State → Ran β} {f : Fault} {t : State}
    (h : r.bind k = .raised f t) :
    r = .raised f t ∨ ∃ a s, r = .done a s ∧ k a s = .raised f t := by
  cases r with
  | done a s => exact .inr ⟨a, s, rfl, h⟩
  | raised g s => cases h; exact .inl rfl

@[simp] theorem raiseIf_false (f : Fault) (s : State) : raiseIf false f s = .done () s := rfl

@[simp] theorem raiseIf_true (f : Fault) (s : State) : raiseIf true f s = .raised f s := rfl

/-- Every command whose pseudocode is a `Ran` answers a next state: its response, or the faulted state. -/
theorem Ran.outcome_next {α : Type} (r : Ran α) (g : α → Response) :
    (∃ a s, r = .done a s ∧ r.outcome g = .next (s.respond (g a))) ∨
    (∃ f s, r = .raised f s ∧ r.outcome g = .next (s.raise f)) := by
  cases r with
  | done a s => exact .inl ⟨a, s, rfl, rfl⟩
  | raised f s => exact .inr ⟨f, s, rfl, rfl⟩

/-! ## The command queue -/

@[simp] theorem State.fetch_cons (s : State) (w : Word) (rest : List Word) (h : s.cmds = w :: rest) :
    s.fetch = some (w, { s with cmds := rest }) := by simp [State.fetch, h]

@[simp] theorem State.fetch_nil (s : State) (h : s.cmds = []) : s.fetch = none := by
  simp [State.fetch, h]

@[simp] theorem State.fetch_issue (s : State) (w : Word) : (s.issue w).fetch = some (w, s) := rfl

end Sys2Proof.Machine
end

