-- ==== Sys2Proof/Laws/BitEngine.lean ====
section
/-! SUPPORT. What the BitEngine's operations do, each said once. -/

namespace Sys2Proof.Machine

/-- `Start(c)`: six events, both lines low at the end, nothing else (40_bit_engine.md R133). -/
theorem LineDriver.startCond_eq (x : LineDriver) :
    x.startCond = { x with
      sda := .drivenLow
      scl := .drivenLow
      trace := x.trace ++
        [.release .scl, .release .sda, .settle, .driveLow .sda, .settle, .driveLow .scl] } := by
  simp [LineDriver.startCond, LineDriver.release, LineDriver.driveLow, LineDriver.put,
    LineDriver.settle, lineEvent]

/-- `Stop(c)`: six events, both lines released at the end, nothing else (R134). -/
theorem LineDriver.stopCond_eq (x : LineDriver) :
    x.stopCond = { x with
      sda := .released
      scl := .released
      trace := x.trace ++
        [.driveLow .sda, .settle, .release .scl, .settle, .release .sda, .settle] } := by
  simp [LineDriver.stopCond, LineDriver.release, LineDriver.driveLow, LineDriver.put,
    LineDriver.settle, lineEvent]

/-- One pulse with SCL released before: four events, SCL released after (R137). -/
theorem LineDriver.pulse_eq (x : LineDriver) (h : x.scl = .released) :
    x.pulse = { x with trace := x.trace ++ [.driveLow .scl, .settle, .release .scl, .settle] } := by
  simp [LineDriver.pulse, LineDriver.release, LineDriver.driveLow, LineDriver.put,
    LineDriver.settle, lineEvent, h]

/-- Pulses with SCL released before: SCL is released after, four events a pulse (R137). -/
theorem LineDriver.pulses_eq (n : Nat) (x : LineDriver) (h : x.scl = .released) :
    LineDriver.pulses n x = { x with
      trace := x.trace ++
        (List.replicate n [.driveLow .scl, .settle, .release .scl, .settle]).flatten } := by
  induction n generalizing x with
  | zero => simp [LineDriver.pulses]
  | succ n ih =>
    rw [LineDriver.pulses, ih x.pulse (by simp [LineDriver.pulse_eq x h, h]), LineDriver.pulse_eq x h]
    simp [List.replicate_succ]

/-- The start of `Recover(c)`: both lines released (R137). -/
theorem LineDriver.letGo_eq (x : LineDriver) :
    x.letGo = { x with
      sda := .released
      scl := .released
      trace := x.trace ++ [.release .scl, .release .sda, .settle] } := by
  simp [LineDriver.letGo, LineDriver.release, LineDriver.put, LineDriver.settle, lineEvent]

/-- A sample changes no line state. -/
theorem LineDriver.sample_lines {x y : LineDriver} {c : Chan} {l : Line} {b : Bool}
    (h : x.sample c l = (b, y)) : y.sda = x.sda ∧ y.scl = x.scl := by
  cases h; exact ⟨rfl, rfl⟩

/-- The verification changes no line state. -/
theorem LineDriver.verifyFree_lines (x : LineDriver) (c : Chan) :
    (x.verifyFree c).2.sda = x.sda ∧ (x.verifyFree c).2.scl = x.scl := by
  unfold LineDriver.verifyFree
  split <;> rename_i y h <;> obtain ⟨h1, h2⟩ := LineDriver.sample_lines h <;> simp [h1, h2]

/-- `Recover(c)` always ends with both lines released (R137). -/
theorem LineDriver.recover_released (x : LineDriver) (c : Chan) :
    (x.recover c).2.sda = .released ∧ (x.recover c).2.scl = .released := by
  unfold LineDriver.recover
  rw [LineDriver.letGo_eq]
  split
  · rename_i y h; exact LineDriver.sample_lines h
  · rename_i y h
    obtain ⟨h1, h2⟩ := LineDriver.sample_lines h
    split
    · rename_i z h'
      obtain ⟨h3, h4⟩ := LineDriver.sample_lines h'
      exact ⟨h3.trans h1, h4.trans h2⟩
    · have e := LineDriver.verifyFree_lines (LineDriver.pulses Config.recoverPulses ‹_›).stopCond c
      rw [LineDriver.stopCond_eq] at e ⊢
      exact e

/-- SCL sampled low first: no pulse, result 0 (R137). -/
theorem LineDriver.recover_sclLow (x : LineDriver) (c : Chan) (rest : List Bool)
    (h : x.answers = false :: rest) :
    x.recover c = (false, { x with
      sda := .released
      scl := .released
      answers := rest
      trace := x.trace ++ [.release .scl, .release .sda, .settle, .sample .scl false] }) := by
  unfold LineDriver.recover
  rw [LineDriver.sample_listed x.letGo c .scl false rest rfl h]
  simp [LineDriver.letGo_eq]

/-- Both lines sampled high first: no pulse, result 1 (R137). -/
theorem LineDriver.recover_free (x : LineDriver) (c : Chan) (rest : List Bool)
    (h : x.answers = true :: true :: rest) :
    x.recover c = (true, { x with
      sda := .released
      scl := .released
      answers := rest
      trace := x.trace ++
        [.release .scl, .release .sda, .settle, .sample .scl true, .sample .sda true] }) := by
  unfold LineDriver.recover
  rw [LineDriver.sample_listed x.letGo c .scl true (true :: rest) rfl h]
  simp [LineDriver.sample, LineDriver.level, LineDriver.line, LineDriver.letGo_eq]

/-! ## Byte write -/

/-- A bit-time: SDA put, SCL high for one settle, SCL low (R135, R136). -/
theorem LineDriver.putBit_clock_eq (x : LineDriver) (b : Bool) :
    (x.putBit b).clock = { x with
      sda := if b then .released else .drivenLow
      scl := .drivenLow
      trace := x.trace ++ [lineEvent .sda (if b then .released else .drivenLow), .settle,
        .release .scl, .settle, .driveLow .scl] } := by
  simp [LineDriver.putBit, LineDriver.clock, LineDriver.release, LineDriver.driveLow, LineDriver.put,
    LineDriver.settle, lineEvent]

/-- A sampling bit-time with SDA released and the next answer listed (R135, R136). -/
theorem LineDriver.clockIn_listed (x : LineDriver) (c : Chan) (b : Bool) (rest : List Bool)
    (h : x.sda = .released) (ha : x.answers = b :: rest) :
    x.clockIn c = (b, { x with
      scl := .drivenLow
      answers := rest
      trace := x.trace ++ [.settle, .release .scl, .settle, .sample .sda b, .driveLow .scl] }) := by
  simp only [LineDriver.clockIn, LineDriver.release, LineDriver.driveLow]
  rw [LineDriver.sample_listed _ c .sda b rest (by simpa [LineDriver.line] using h) (by simpa using ha)]
  simp [LineDriver.put, LineDriver.settle, lineEvent]

/-- A sampling bit-time keeps SDA and leaves SCL low. -/
theorem LineDriver.clockIn_lines (x : LineDriver) (c : Chan) :
    (x.clockIn c).2.sda = x.sda ∧ (x.clockIn c).2.scl = .drivenLow := ⟨rfl, rfl⟩

/-- Everything `WriteByte` can do: latch, shift a bit out, take the ACK; or the conflict (R135). -/
theorem Channel.writeByte_cases (x : Channel) (c : Chan) (v : Byte) :
    (x.be.mode = .idle ∧ x.writeByte c v = .ok (x.writeLatch v)) ∨
    (x.be.mode = .writing ∧ x.be.idx ≤ 7 ∧ x.writeByte c v = .ok x.writeBit) ∨
    (x.be.mode = .writing ∧ ¬ x.be.idx ≤ 7 ∧ x.writeByte c v = .ok (x.writeAck c)) ∨
    (x.be.mode = .reading ∧ x.writeByte c v = .error .byteOpConflict) := by
  unfold Channel.writeByte
  cases x.be.mode <;> by_cases h : x.be.idx ≤ 7 <;> simp [h]

/-- Everything `ReadByte` can do (R136). -/
theorem Channel.readByte_cases (x : Channel) (c : Chan) (a : Bool) :
    (x.be.mode = .idle ∧ x.readByte c a = .ok (x.readLatch a)) ∨
    (x.be.mode = .reading ∧ x.be.idx ≤ 7 ∧ x.readByte c a = .ok (x.readBit c)) ∨
    (x.be.mode = .reading ∧ ¬ x.be.idx ≤ 7 ∧ x.readByte c a = .ok x.readAck) ∨
    (x.be.mode = .writing ∧ x.readByte c a = .error .byteOpConflict) := by
  unfold Channel.readByte
  cases x.be.mode <;> by_cases h : x.be.idx ≤ 7 <;> simp [h]

/-- A byte operation touches no TransactionEngine field. -/
theorem Channel.writeByte_te {x y : Channel} {c : Chan} {v : Byte} (h : x.writeByte c v = .ok y) :
    y.te = x.te := by
  obtain ⟨-, e⟩ | ⟨-, -, e⟩ | ⟨-, -, e⟩ | ⟨-, e⟩ := x.writeByte_cases c v <;> rw [e] at h <;> cases h <;> rfl

theorem Channel.readByte_te {x y : Channel} {c : Chan} {a : Bool} (h : x.readByte c a = .ok y) :
    y.te = x.te := by
  obtain ⟨-, e⟩ | ⟨-, -, e⟩ | ⟨-, -, e⟩ | ⟨-, e⟩ := x.readByte_cases c a <;> rw [e] at h <;> cases h <;> rfl

/-! ## Guards -/

/-- The ownership guard (R139). -/
theorem guardOwner_eq (c : Chan) (s : State) :
    guardOwner c s = if (s.chan c).te.st = .idle then .done () s else .raised .channelOwned s := by
  by_cases h : (s.chan c).te.st = .idle <;> simp [guardOwner, Channel.free, h]

/-- The mid-byte guard. -/
theorem guardReady_eq (c : Chan) (s : State) :
    guardReady c s = if (s.chan c).be.mode = .idle then .done () s else .raised .bitEngineBusy s := by
  by_cases h : (s.chan c).be.mode = .idle <;> simp [guardReady, Channel.ready, h]

@[simp] theorem State.putChan_ok (s : State) (c : Chan) (x : Channel) :
    s.putChan c (.ok x) = .done () (s.setChan c x) := rfl

@[simp] theorem State.putChan_error (s : State) (c : Chan) (f : Fault) :
    s.putChan c (.error f) = .raised f s := rfl

end Sys2Proof.Machine
end

