-- ==== Sys2Proof/Laws/PerInstr.lean ====
section
/-! SUPPORT. One lemma per command: its word matches a row of spec/opcode_table.json (30_encoding.md R94,
R96). -/

namespace Sys2Proof.Laws.OpcodeRow

open Sys2Proof

/-- The command's word is a word of some row of the opcode table. -/
def Statement (i : Instr) : Prop := ∃ r ∈ opcodeRows, encode i &&& r.2 = r.1

theorem bstart (c : Chan) : Statement (.bstart c) :=
  ⟨(0x08000000, 0xFBFFFFFF), by decide, by cases c <;> decide⟩

theorem bstop (c : Chan) : Statement (.bstop c) :=
  ⟨(0x10000000, 0xFBFFFFFF), by decide, by cases c <;> decide⟩

theorem bwrite (c : Chan) (v : Byte) : Statement (.bwrite c v) :=
  ⟨(0x18000000, 0xFBFFFF00), by decide, by revert v; cases c <;> decide +kernel⟩

theorem bread (c : Chan) (a : Bool) : Statement (.bread c a) :=
  ⟨(0x20000000, 0xFBFFFFFE), by decide, by cases c <;> cases a <;> decide⟩

theorem brecover (c : Chan) : Statement (.brecover c) :=
  ⟨(0x28000000, 0xFBFFFFFF), by decide, by cases c <;> decide⟩

theorem bready (c : Chan) : Statement (.bready c) :=
  ⟨(0x30000000, 0xFBFFFFFF), by decide, by cases c <;> decide⟩

theorem treqwr (c : Chan) (w : BitVec 2) (reg : Byte) (value : BitVec 16) : Statement (.treqwr c w reg value) := by
  refine ⟨(0x40000000, 0xF8000000), by decide, ?_⟩
  apply BitVec.eq_of_getLsbD_eq
  intro k hk
  unfold encode commandWord
  simp only [BitVec.getLsbD_and, BitVec.getLsbD_append]
  interval_cases k <;> simp

theorem treqrd (c : Chan) (w : BitVec 2) (reg : Byte) : Statement (.treqrd c w reg) := by
  refine ⟨(0x48000000, 0xF800FFFF), by decide, ?_⟩
  apply BitVec.eq_of_getLsbD_eq
  intro k hk
  unfold encode commandWord
  simp only [BitVec.getLsbD_and, BitVec.getLsbD_append]
  interval_cases k <;> simp

theorem ttick (c : Chan) : Statement (.ttick c) :=
  ⟨(0x50000000, 0xFBFFFFFF), by decide, by cases c <;> decide⟩

theorem tvalue (c : Chan) : Statement (.tvalue c) :=
  ⟨(0x58000000, 0xFBFFFFFF), by decide, by cases c <;> decide⟩

theorem tack (c : Chan) : Statement (.tack c) :=
  ⟨(0x60000000, 0xFBFFFFFF), by decide, by cases c <;> decide⟩

theorem terror (c : Chan) : Statement (.terror c) :=
  ⟨(0x68000000, 0xFBFFFFFF), by decide, by cases c <;> decide⟩

theorem trecover (c : Chan) : Statement (.trecover c) :=
  ⟨(0x70000000, 0xFBFFFFFF), by decide, by cases c <;> decide⟩

theorem ttimings (c : Chan) : Statement (.ttimings c) :=
  ⟨(0x78000000, 0xFBFFFFFF), by decide, by cases c <;> decide⟩

theorem trsttim (c : Chan) : Statement (.trsttim c) :=
  ⟨(0x80000000, 0xFBFFFFFF), by decide, by cases c <;> decide⟩

theorem ssetok : Statement .ssetok :=
  ⟨(0xB8000000, 0xFFFFFFFF), by decide, by decide⟩

theorem stick : Statement .stick :=
  ⟨(0xC0000000, 0xFFFFFFFF), by decide, by decide⟩

theorem srdpres (c : Chan) : Statement (.srdpres c) :=
  ⟨(0xC8000000, 0xFBFFFFFF), by decide, by cases c <;> decide⟩

theorem srdsec (c : Chan) : Statement (.srdsec c) :=
  ⟨(0xD0000000, 0xFBFFFFFF), by decide, by cases c <;> decide⟩

theorem siserr : Statement .siserr :=
  ⟨(0xD8000000, 0xFFFFFFFF), by decide, by decide⟩

theorem stimings : Statement .stimings :=
  ⟨(0xE0000000, 0xFFFFFFFF), by decide, by decide⟩

theorem sstats : Statement .sstats :=
  ⟨(0xE8000000, 0xFFFFFFFF), by decide, by decide⟩

theorem sdur : Statement .sdur :=
  ⟨(0xF0000000, 0xFFFFFFFF), by decide, by decide⟩

theorem ssetup : Statement .ssetup :=
  ⟨(0xF8000000, 0xFFFFFFFF), by decide, by decide⟩

end Sys2Proof.Laws.OpcodeRow
end

