-- ==== Sys2Proof/Laws/Transaction.lean ====
section
/-! SUPPORT. What the TransactionEngine's operations do, each said once. -/

namespace Sys2Proof.Machine

/-- Everything a request can do (41_transaction_engine.md R165): BusBusy, InvalidWidth, BitEngineBusy, or
acceptance. -/
theorem request_cases (c : Chan) (k : Option Kind) (reg : Byte) (value : BitVec 16) (s : State) :
    ((s.chan c).te.st ≠ .idle ∧ request c k reg value s = .done false s) ∨
    ((s.chan c).te.st = .idle ∧ k = none ∧ request c k reg value s = .done false s) ∨
    ((s.chan c).te.st = .idle ∧ (s.chan c).be.mode ≠ .idle ∧ (∃ j, k = some j) ∧
      request c k reg value s = .raised .bitEngineBusy s) ∨
    ((s.chan c).te.st = .idle ∧ (s.chan c).be.mode = .idle ∧ ∃ j, k = some j ∧
      request c k reg value s =
        .done true (s.setChan c { s.chan c with te := (s.chan c).te.accept j reg value })) := by
  by_cases h : (s.chan c).te.st = .idle
  · cases k with
    | none => exact .inr (.inl ⟨h, rfl, by simp [request, Channel.judgeRequest, h]⟩)
    | some j =>
      by_cases hm : (s.chan c).be.mode = .idle
      · exact .inr (.inr (.inr ⟨h, hm, j, rfl, by simp [request, Channel.judgeRequest, h, hm]⟩))
      · exact .inr (.inr (.inl ⟨h, hm, ⟨j, rfl⟩, by simp [request, Channel.judgeRequest, h, hm]⟩))
  · exact .inl ⟨h, by simp [request, Channel.judgeRequest, h]⟩

/-- An accepted request on a channel at rest. -/
theorem request_accepted (c : Chan) (k : Kind) (reg : Byte) (value : BitVec 16) (s : State)
    (h : (s.chan c).te.st = .idle) (hm : (s.chan c).be.mode = .idle) :
    request c (some k) reg value s =
      .done true (s.setChan c { s.chan c with te := (s.chan c).te.accept k reg value }) := by
  simp [request, Channel.judgeRequest, h, hm]

/-- Everything a WriteStep can do (R172): the byte goes on, it ends, or the conflict. -/
theorem Channel.writeStep_cases (x : Channel) (c : Chan) (k : Kind) (b : Byte) (next : TState)
    (stop : Bool) :
    (x.be.mode = .idle ∧ x.writeStep c k b next stop = .ok (false, x.writeLatch b)) ∨
    (x.be.mode = .writing ∧ x.be.idx ≤ 7 ∧ x.writeStep c k b next stop = .ok (false, x.writeBit)) ∨
    (x.be.mode = .writing ∧ ¬ x.be.idx ≤ 7 ∧
      x.writeStep c k b next stop = .ok (movedOn (x.writeAck c).be.ackr stop,
        { x.writeAck c with te := x.te.byteWritten k (x.writeAck c).be.ackr next stop })) ∨
    (x.be.mode = .reading ∧ x.writeStep c k b next stop = .error .byteOpConflict) := by
  obtain ⟨h, e⟩ | ⟨h, hi, e⟩ | ⟨h, hi, e⟩ | ⟨h, e⟩ := x.writeByte_cases c b
  · exact .inl ⟨h, by simp [Channel.writeStep, e, Channel.writeLatch]⟩
  · exact .inr (.inl ⟨h, hi, by simp [Channel.writeStep, e, Channel.writeBit, h]⟩)
  · exact .inr (.inr (.inl ⟨h, hi, by simp [Channel.writeStep, e, Channel.writeAck]⟩))
  · exact .inr (.inr (.inr ⟨h, by simp [Channel.writeStep, e]⟩))

/-- Everything a ReadStep can do (R172). -/
theorem Channel.readStep_cases (x : Channel) (c : Chan) (d : RData) :
    (x.be.mode = .idle ∧ x.readStep c d = .ok (x.readLatch (sendAck d))) ∨
    (x.be.mode = .reading ∧ x.be.idx ≤ 7 ∧ x.readStep c d = .ok (x.readBit c)) ∨
    (x.be.mode = .reading ∧ ¬ x.be.idx ≤ 7 ∧
      x.readStep c d = .ok { x.readAck with te := x.te.byteRead d x.be.sh }) ∨
    (x.be.mode = .writing ∧ x.readStep c d = .error .byteOpConflict) := by
  obtain ⟨h, e⟩ | ⟨h, hi, e⟩ | ⟨h, hi, e⟩ | ⟨h, e⟩ := x.readByte_cases c (sendAck d)
  · exact .inl ⟨h, by simp [Channel.readStep, e, Channel.readLatch]⟩
  · exact .inr (.inl ⟨h, hi, by simp [Channel.readStep, e, Channel.readBit, h]⟩)
  · exact .inr (.inr (.inl ⟨h, hi, by simp [Channel.readStep, e, Channel.readAck]⟩))
  · exact .inr (.inr (.inr ⟨h, by simp [Channel.readStep, e]⟩))

/-- The byte a written-byte state sends, where it leads with ACK, whether a NACK stops the transaction, and
the kind: the arguments TickBody gives to WriteStep (R172). -/
def Channel.sends (x : Channel) (c : Chan) : Option (Kind × Byte × TState × Bool) :=
  match x.te.st with
  | .addr k => some (k, addrWrite c, .reg k, true)
  | .reg k => some (k, x.te.reg, afterReg k, true)
  | .wdata d => some (.write (wdataKind d), writeByteOf x.te.wval d, afterWdata d, stopOnNack d)
  | .addr2 k => some (.read k, addrRead c, .rdata (rdataFirst k), true)
  | .idle => none
  | .start _ => none
  | .restart _ => none
  | .rdata _ => none
  | .stop _ => none

/-- The channel after the end of a written byte in TickBody: as WriteStep leaves it, and `acc` cleared where
the read address byte moved on. -/
def Channel.byteEnd (x : Channel) (c : Chan) (k : Kind) (next : TState) (stop : Bool) : Channel :=
  { x.writeAck c with
    te := { x.te.byteWritten k (x.writeAck c).be.ackr next stop with
      acc := match x.te.st with
        | .addr2 _ => if movedOn (x.writeAck c).be.ackr stop then 0 else x.te.acc
        | _ => x.te.acc } }

/-- The end of a written byte in TickBody outside Addr2 is WriteStep's. -/
theorem Channel.tickBody_stepped (x : Channel) (c : Chan) (k : Kind) (b : Byte) (next : TState)
    (stop : Bool) (e : x.tickBody c = stepped (x.writeStep c k b next stop))
    (hn : ∀ i, x.te.st ≠ .addr2 i) :
    (x.be.mode = .idle ∧ x.tickBody c = .ok (x.writeLatch b)) ∨
    (x.be.mode = .writing ∧ x.be.idx ≤ 7 ∧ x.tickBody c = .ok x.writeBit) ∨
    (x.be.mode = .writing ∧ ¬ x.be.idx ≤ 7 ∧ x.tickBody c = .ok (x.byteEnd c k next stop)) ∨
    (x.be.mode = .reading ∧ x.tickBody c = .error .byteOpConflict) := by
  have hb : x.byteEnd c k next stop =
      { x.writeAck c with te := x.te.byteWritten k (x.writeAck c).be.ackr next stop } := by
    unfold Channel.byteEnd
    split
    · rename_i i hi; exact absurd hi (hn i)
    · rfl
  rw [e, hb]
  obtain ⟨hm, e⟩ | ⟨hm, hi, e⟩ | ⟨hm, hi, e⟩ | ⟨hm, e⟩ := x.writeStep_cases c k b next stop
  · exact .inl ⟨hm, by rw [e]; rfl⟩
  · exact .inr (.inl ⟨hm, hi, by rw [e]; rfl⟩)
  · exact .inr (.inr (.inl ⟨hm, hi, by rw [e]; rfl⟩))
  · exact .inr (.inr (.inr ⟨hm, by rw [e]; rfl⟩))

/-- A tick in a written-byte state: latch, shift a bit out, end the byte, or the conflict. -/
theorem Channel.tickBody_sends (x : Channel) (c : Chan) {k : Kind} {b : Byte} {next : TState} {stop : Bool}
    (h : x.sends c = some (k, b, next, stop)) :
    (x.be.mode = .idle ∧ x.tickBody c = .ok (x.writeLatch b)) ∨
    (x.be.mode = .writing ∧ x.be.idx ≤ 7 ∧ x.tickBody c = .ok x.writeBit) ∨
    (x.be.mode = .writing ∧ ¬ x.be.idx ≤ 7 ∧ x.tickBody c = .ok (x.byteEnd c k next stop)) ∨
    (x.be.mode = .reading ∧ x.tickBody c = .error .byteOpConflict) := by
  unfold Channel.sends at h
  split at h <;> cases h
  · rename_i hs; exact x.tickBody_stepped c _ _ _ _ (by simp [Channel.tickBody, hs]) (by simp [hs])
  · rename_i hs; exact x.tickBody_stepped c _ _ _ _ (by simp [Channel.tickBody, hs]) (by simp [hs])
  · rename_i hs; exact x.tickBody_stepped c _ _ _ _ (by simp [Channel.tickBody, hs]) (by simp [hs])
  · rename_i i hs
    have e0 : x.tickBody c =
        clearAcc (x.writeStep c (.read i) (addrRead c) (.rdata (rdataFirst i)) true) := by
      simp [Channel.tickBody, hs]
    rw [e0]
    obtain ⟨hm, e⟩ | ⟨hm, hi, e⟩ | ⟨hm, hi, e⟩ | ⟨hm, e⟩ :=
      x.writeStep_cases c (.read i) (addrRead c) (.rdata (rdataFirst i)) true
    · exact .inl ⟨hm, by rw [e]; rfl⟩
    · exact .inr (.inl ⟨hm, hi, by rw [e]; rfl⟩)
    · exact .inr (.inr (.inl ⟨hm, hi, by
        rw [e]; simp [clearAcc, Channel.byteEnd, hs, Except.map, TransEngine.byteWritten]⟩))
    · exact .inr (.inr (.inr ⟨hm, by rw [e]; rfl⟩))

/-- A tick in a Data state of a read. -/
theorem Channel.tickBody_rdata (x : Channel) (c : Chan) {d : RData} (h : x.te.st = .rdata d) :
    x.tickBody c = x.readStep c d := by simp [Channel.tickBody, h]

/-- The duration TTICK measures: the difference of its two readings of the timer (R172). -/
def State.tickTime (s : State) : Config.TimerWord :=
  BitVec.ofNat Config.timerBits s.timer.read.next - BitVec.ofNat Config.timerBits s.timer.next

/-- The state after a tick whose body left channel c at y: the sample recorded, the timer read twice. -/
def State.ticked (s : State) (c : Chan) (y : Channel) : State :=
  { s with
    chans := s.chans.set c { y with te := y.te.recordTime (s.chan c).te.st s.tickTime }
    timer := s.timer.read.read }

@[simp] theorem State.chan_ticked (s : State) (c : Chan) (y : Channel) :
    (s.ticked c y).chan c = { y with te := y.te.recordTime (s.chan c).te.st s.tickTime } :=
  PerChan.get_set_same _ _ _

theorem State.chan_ticked_ne (s : State) {c d : Chan} (y : Channel) (h : d ≠ c) :
    (s.ticked c y).chan d = s.chan d := PerChan.get_set_ne _ _ h

@[simp] theorem State.sq_ticked (s : State) (c : Chan) (y : Channel) : (s.ticked c y).sq = s.sq := rfl
@[simp] theorem State.fault_ticked (s : State) (c : Chan) (y : Channel) : (s.ticked c y).fault = s.fault := rfl
@[simp] theorem State.resp_ticked (s : State) (c : Chan) (y : Channel) : (s.ticked c y).resp = s.resp := rfl
@[simp] theorem State.cmds_ticked (s : State) (c : Chan) (y : Channel) : (s.ticked c y).cmds = s.cmds := rfl
@[simp] theorem State.draws_ticked (s : State) (c : Chan) (y : Channel) : (s.ticked c y).draws = s.draws := rfl
@[simp] theorem State.timer_ticked (s : State) (c : Chan) (y : Channel) :
    (s.ticked c y).timer = s.timer.read.read := rfl

@[simp] theorem TransEngine.st_recordTime (t : TransEngine) (st : TState) (d : Config.TimerWord) :
    (t.recordTime st d).st = t.st := rfl
@[simp] theorem TransEngine.reg_recordTime (t : TransEngine) (st : TState) (d : Config.TimerWord) :
    (t.recordTime st d).reg = t.reg := rfl
@[simp] theorem TransEngine.wval_recordTime (t : TransEngine) (st : TState) (d : Config.TimerWord) :
    (t.recordTime st d).wval = t.wval := rfl
@[simp] theorem TransEngine.acc_recordTime (t : TransEngine) (st : TState) (d : Config.TimerWord) :
    (t.recordTime st d).acc = t.acc := rfl
@[simp] theorem TransEngine.val_recordTime (t : TransEngine) (st : TState) (d : Config.TimerWord) :
    (t.recordTime st d).val = t.val := rfl
@[simp] theorem TransEngine.vvalid_recordTime (t : TransEngine) (st : TState) (d : Config.TimerWord) :
    (t.recordTime st d).vvalid = t.vvalid := rfl
@[simp] theorem TransEngine.ack_recordTime (t : TransEngine) (st : TState) (d : Config.TimerWord) :
    (t.recordTime st d).ack = t.ack := rfl
@[simp] theorem TransEngine.err_recordTime (t : TransEngine) (st : TState) (d : Config.TimerWord) :
    (t.recordTime st d).err = t.err := rfl

/-- `TTICK(c)` whose body succeeds (R172). -/
theorem tick_ok (c : Chan) (s : State) {y : Channel} (h : (s.chan c).tickBody c = .ok y) :
    tick c s = .done (!y.free) (s.ticked c y) := by
  unfold tick
  simp only [State.chan_readTimer, h, State.putChan_ok, Ran.bind_done]
  congr 1
  · simp [Channel.free]
  · cases c <;>
    simp [State.ticked, State.recordTime, State.tickTime, State.now, State.readTimer, State.setChan,
      State.chan, PerChan.set, PerChan.get]

/-- `TTICK(c)` whose body faults: only in a state no run reaches (10_state.md R51). -/
theorem tick_error (c : Chan) (s : State) {f : Fault} (h : (s.chan c).tickBody c = .error f) :
    tick c s = .raised f s.readTimer := by
  unfold tick
  simp [h]

end Sys2Proof.Machine
end

