-- ==== Sys2Proof/Laws/Wire.lean ====
section
/-! SUPPORT. The BitEngine's bit-times as lists of bus events, and the bit and byte commands on a channel
without a transaction, each said once in the terms of Safety.lean. -/

namespace Sys2Proof.Machine

/-! ## Bit-times -/

@[simp] theorem lineEvent_sda (b : Bool) :
    lineEvent .sda (if b then .released else .drivenLow) = sdaEvent b := by cases b <;> rfl

/-- Calls 1 to 8 of a byte write (40_bit_engine.md R135). -/
theorem Channel.writeBit_eq (x : Channel) :
    x.writeBit = { x with
      ld := { x.ld with
        sda := if x.be.sh.getLsbD 7 then .released else .drivenLow
        scl := .drivenLow
        trace := x.ld.trace ++ sendBitEvents (x.be.sh.getLsbD 7) }
      be := { x.be with sh := x.be.sh <<< 1, idx := x.be.idx + 1 } } := by
  have hm : x.be.sh.msb = x.be.sh.getLsbD 7 := by simp [BitVec.msb, BitVec.getMsbD]
  simp only [Channel.writeBit, hm, LineDriver.putBit_clock_eq, lineEvent_sda, sendBitEvents]

/-- Call 9 of a byte read (R136). -/
theorem Channel.readAck_eq (x : Channel) :
    x.readAck = { x with
      ld := { x.ld with
        sda := if x.be.acks then .drivenLow else .released
        scl := .drivenLow
        trace := x.ld.trace ++ sendBitEvents (!x.be.acks) }
      be := { x.be with mode := .idle } } := by
  simp only [Channel.readAck, LineDriver.putBit_clock_eq, lineEvent_sda, sendBitEvents]
  cases x.be.acks <;> rfl

/-- A sampling bit-time with SDA released: the bit is the next listed answer, or the oracle's. -/
theorem LineDriver.clockIn_released (x : LineDriver) (c : Chan) (h : x.sda = .released) :
    ∃ b n, (∀ a rest, x.answers = a :: rest → b = a) ∧
      x.clockIn c = (b, { x with
        scl := .drivenLow
        trace := x.trace ++ takeBitEvents b
        answers := x.answers.tail
        samples := n }) := by
  refine ⟨(x.clockIn c).1, (x.clockIn c).2.samples, ?_, ?_⟩
  · intro a rest ha
    rw [LineDriver.clockIn_listed x c a rest h ha]
  · obtain ⟨sda, scl, tr, as, n⟩ := x
    subst h
    simp [LineDriver.clockIn, LineDriver.sample, LineDriver.line, LineDriver.release, LineDriver.driveLow,
      LineDriver.put, LineDriver.settle, lineEvent, takeBitEvents]

/-- Call 9 of a byte write: SDA released, the ACK bit sampled (R135). -/
theorem Channel.writeAck_spec (x : Channel) (c : Chan) :
    ∃ b n, (∀ a rest, x.ld.answers = a :: rest → b = a) ∧
      x.writeAck c = { x with
        ld := { x.ld with
          sda := .released
          scl := .drivenLow
          trace := x.ld.trace ++ .release .sda :: takeBitEvents b
          answers := x.ld.answers.tail
          samples := n }
        be := { x.be with ackr := !b, mode := .idle } } := by
  obtain ⟨b, n, hb, e⟩ := (x.ld.release .sda).clockIn_released c rfl
  refine ⟨b, n, hb, ?_⟩
  simp only [Channel.writeAck, e]
  simp [LineDriver.release, LineDriver.put, lineEvent, ackOf]

/-- `v[0] <- b` after a shift left. -/
theorem setBit0_shiftLeft (v : Byte) (b : Bool) :
    setBit0 (v <<< 1) b = v <<< 1 ||| (BitVec.ofBool b).setWidth 8 := by
  revert v b; decide +kernel

/-- Calls 1 to 8 of a byte read, SDA released (R136). -/
theorem Channel.readBit_spec (x : Channel) (c : Chan) (h : x.ld.sda = .released) :
    ∃ b n, (∀ a rest, x.ld.answers = a :: rest → b = a) ∧
      x.readBit c = { x with
        ld := { x.ld with
          scl := .drivenLow
          trace := x.ld.trace ++ takeBitEvents b
          answers := x.ld.answers.tail
          samples := n }
        be := { x.be with
          sh := x.be.sh <<< 1 ||| (BitVec.ofBool b).setWidth 8, idx := x.be.idx + 1 } } := by
  obtain ⟨b, n, hb, e⟩ := x.ld.clockIn_released c h
  exact ⟨b, n, hb, by simp [Channel.readBit, e, setBit0_shiftLeft]⟩

/-! ## Byte commands of the host -/

/-- BWRITE without a transaction (R142). -/
theorem exec_bwrite_ok (c : Chan) (v : Byte) (s : State) {y : Channel} (h : (s.chan c).te.st = .idle)
    (e : (s.chan c).writeByte c v = .ok y) :
    exec (.bwrite c v) s = .next ((s.setChan c y).respond (.bool y.be.ackr)) := by
  simp [exec, execBwrite, guardOwner_eq, h, e]

/-- BREAD without a transaction (R143). -/
theorem exec_bread_ok (c : Chan) (a : Bool) (s : State) {y : Channel} (h : (s.chan c).te.st = .idle)
    (e : (s.chan c).readByte c a = .ok y) :
    exec (.bread c a) s = .next ((s.setChan c y).respond (.u8 y.be.sh)) := by
  simp [exec, execBread, guardOwner_eq, h, e]

/-- BRECOVER and TRECOVER at rest (R144, 41_transaction_engine.md R181). -/
theorem exec_recover_ok (c : Chan) (i : Instr) (s : State) (hi : i = .brecover c ∨ i = .trecover c)
    (h : (s.chan c).te.st = .idle) (hm : (s.chan c).be.mode = .idle) :
    exec i s = .next ((s.setLines c ((s.chan c).ld.recover c).2).respond
      (.bool ((s.chan c).ld.recover c).1)) := by
  rcases hi with rfl | rfl
  · simp [exec, execBrecover, recoverCommand, guardOwner_eq, guardReady_eq, h, hm]
  · simp [exec, execTrecover, recoverCommand, guardOwner_eq, guardReady_eq, h, hm]

/-! ## The tick -/

/-- TTICK whose body leaves the channel at y (41_transaction_engine.md R172). -/
theorem exec_ttick_ok (c : Chan) (s : State) {y : Channel} (h : (s.chan c).tickBody c = .ok y) :
    exec (.ttick c) s = .next ((s.ticked c y).respond (.bool (!y.free))) := by
  simp [exec, execTtick, tick_ok c s h]

/-- TTICK in Idle. -/
theorem Channel.tickBody_idle (x : Channel) (c : Chan) (h : x.te.st = .idle) : x.tickBody c = .ok x := by
  simp only [Channel.tickBody, h]

/-- TTICK in Start. -/
theorem Channel.tickBody_start (x : Channel) (c : Chan) {k : Kind} (h : x.te.st = .start k) :
    x.tickBody c = .ok { x with
      ld := { x.ld with sda := .drivenLow, scl := .drivenLow, trace := x.ld.trace ++ startEvents }
      te := { x.te with st := .addr k } } := by
  simp only [Channel.tickBody, h, Channel.condition, LineDriver.startCond_eq, startEvents]

/-- TTICK in Restart. -/
theorem Channel.tickBody_restart (x : Channel) (c : Chan) {k : RKind} (h : x.te.st = .restart k) :
    x.tickBody c = .ok { x with
      ld := { x.ld with sda := .drivenLow, scl := .drivenLow, trace := x.ld.trace ++ startEvents }
      te := { x.te with st := .addr2 k } } := by
  simp only [Channel.tickBody, h, Channel.condition, LineDriver.startCond_eq, startEvents]

/-- TTICK in Stop. -/
theorem Channel.tickBody_stop (x : Channel) (c : Chan) {k : Kind} (h : x.te.st = .stop k) :
    x.tickBody c = .ok { x with
      ld := { x.ld with sda := .released, scl := .released, trace := x.ld.trace ++ stopEvents }
      te := { x.te with st := .idle } } := by
  simp only [Channel.tickBody, h, Channel.condition, LineDriver.stopCond_eq, stopEvents]

/-- In a coherent state a tick does not fault (10_state.md R51). -/
theorem Channel.tickBody_ok (x : Channel) (c : Chan) (h : x.coherent = true) :
    ∃ y, x.tickBody c = .ok y := by
  have snd : (x.sends c).isSome = true → x.be.mode ≠ .reading → ∃ y, x.tickBody c = .ok y := by
    intro hs hm
    obtain ⟨⟨k, b, n, stop⟩, hs⟩ := Option.isSome_iff_exists.1 hs
    obtain ⟨-, e⟩ | ⟨-, -, e⟩ | ⟨-, -, e⟩ | ⟨h, -⟩ := x.tickBody_sends c hs
    · exact ⟨_, e⟩
    · exact ⟨_, e⟩
    · exact ⟨_, e⟩
    · exact absurd h hm
  cases hst : x.te.st with
  | idle => exact ⟨_, x.tickBody_idle c hst⟩
  | start k => exact ⟨_, x.tickBody_start c hst⟩
  | restart k => exact ⟨_, x.tickBody_restart c hst⟩
  | stop k => exact ⟨_, x.tickBody_stop c hst⟩
  | addr k => exact snd (by simp [Channel.sends, hst]) (by simpa [Channel.coherent, hst] using h)
  | reg k => exact snd (by simp [Channel.sends, hst]) (by simpa [Channel.coherent, hst] using h)
  | wdata k => exact snd (by simp [Channel.sends, hst]) (by simpa [Channel.coherent, hst] using h)
  | addr2 k => exact snd (by simp [Channel.sends, hst]) (by simpa [Channel.coherent, hst] using h)
  | rdata d =>
    rw [x.tickBody_rdata c hst]
    obtain ⟨-, e⟩ | ⟨-, -, e⟩ | ⟨-, -, e⟩ | ⟨h', -⟩ := x.readStep_cases c d
    · exact ⟨_, e⟩
    · exact ⟨_, e⟩
    · exact ⟨_, e⟩
    · simp [Channel.coherent, hst, h'] at h

end Sys2Proof.Machine
end

