-- ==== Sys2Proof/Laws/Run.lean ====
section
/-! SUPPORT. Many ticks of one channel: the bodies run on the channel alone, and how a run of TTICKs on the
machine follows them, the timing sample apart. -/

namespace Sys2Proof.Machine

/-- The channel with another timing sample. -/
def Channel.withTime (x : Channel) (tmax : Config.TimerWord) (tid : TState) (tvalid : Bool) : Channel :=
  { x with te := { x.te with tmax := tmax, tid := tid, tvalid := tvalid } }

/-- No body reads or writes the timing sample (41_transaction_engine.md R172). -/
theorem Channel.tickBody_withTime (x : Channel) (c : Chan) (m : Config.TimerWord) (i : TState) (v : Bool) :
    (x.withTime m i v).tickBody c = (x.tickBody c).map fun y => y.withTime m i v := by
  obtain ⟨ld, ⟨mode, sh, idx, ackr, acks⟩, te⟩ := x
  obtain ⟨st, reg, wval, acc, val, vvalid, ack, err, tmax, tid, tvalid⟩ := te
  cases st <;> cases mode <;>
    first
    | rfl
    | (by_cases h : idx ≤ 7 <;>
        simp only [Channel.withTime, Channel.tickBody, Channel.writeStep, Channel.readStep,
          Channel.writeByte, Channel.readByte, h, if_true, if_false] <;> rfl)

/-- n bodies of channel c. -/
def Channel.bodies (c : Chan) : Nat → Channel → Except Fault Channel
  | 0, x => .ok x
  | n + 1, x =>
    match x.tickBody c with
    | .ok y => Channel.bodies c n y
    | .error f => .error f

theorem Channel.bodies_withTime (c : Chan) (n : Nat) (x : Channel) (m : Config.TimerWord) (i : TState)
    (v : Bool) :
    Channel.bodies c n (x.withTime m i v) = (Channel.bodies c n x).map fun y => y.withTime m i v := by
  induction n generalizing x with
  | zero => rfl
  | succ n ih =>
    simp only [Channel.bodies, Channel.tickBody_withTime]
    cases x.tickBody c with
    | error f => rfl
    | ok y => exact ih y

theorem Channel.bodies_add (c : Chan) (m n : Nat) {x y : Channel} (h : Channel.bodies c m x = .ok y) :
    Channel.bodies c (m + n) x = Channel.bodies c n y := by
  induction m generalizing x with
  | zero => cases h; rw [Nat.zero_add]
  | succ m ih =>
    rw [Nat.succ_add]
    simp only [Channel.bodies] at h ⊢
    cases e : x.tickBody c with
    | error f => rw [e] at h; cases h
    | ok z => rw [e] at h; exact ih h

/-- One tick more. -/
theorem ticks_succ (c : Chan) (n : Nat) (s : State) {y : Channel} (h : (s.chan c).tickBody c = .ok y) :
    ticks c (n + 1) s = ticks c n ((s.ticked c y).respond (.bool (!y.free))) := by
  unfold ticks
  rw [List.replicate_succ, execAll, exec_ttick_ok c s h]

/-- n TTICKs on the machine: what n bodies do to the channel, a timing sample, and the last response. -/
theorem ticks_of_bodies (c : Chan) (n : Nat) (s : State) {y : Channel}
    (h : Channel.bodies c n (s.chan c) = .ok y) :
    ∃ t m i v, ticks c n s = .next t ∧ t.chan c = y.withTime m i v ∧
      (∀ d, d ≠ c → t.chan d = s.chan d) ∧ t.sq = s.sq ∧ t.fault = s.fault ∧ t.cmds = s.cmds ∧
      t.draws = s.draws ∧ (0 < n → t.resp = some (.bool (!y.free))) := by
  induction n generalizing s y with
  | zero =>
    cases h
    exact ⟨s, (s.chan c).te.tmax, (s.chan c).te.tid, (s.chan c).te.tvalid, rfl, rfl, fun _ _ => rfl, rfl,
      rfl, rfl, rfl, fun h => absurd h (Nat.lt_irrefl 0)⟩
  | succ n ih =>
    unfold Channel.bodies at h
    cases e : (s.chan c).tickBody c with
    | error f => rw [e] at h; cases h
    | ok z =>
      rw [e] at h
      let u := (s.ticked c z).respond (.bool (!z.free))
      have hu : u.chan c = z.withTime (z.te.recordTime (s.chan c).te.st s.tickTime).tmax
          (z.te.recordTime (s.chan c).te.st s.tickTime).tid
          (z.te.recordTime (s.chan c).te.st s.tickTime).tvalid := by
        simp only [u, State.chan_respond, State.chan_ticked]
        rfl
      have hb := Channel.bodies_withTime c n z (z.te.recordTime (s.chan c).te.st s.tickTime).tmax
          (z.te.recordTime (s.chan c).te.st s.tickTime).tid
          (z.te.recordTime (s.chan c).te.st s.tickTime).tvalid
      rw [← hu] at hb
      have h' : Channel.bodies c n z = .ok y := h
      rw [h'] at hb
      obtain ⟨t, m, i, v, e1, e2, e3, e4, e5, e6, e7, e8⟩ := ih u hb
      refine ⟨t, m, i, v, (ticks_succ c n s e).trans e1, e2, fun d hd => (e3 d hd).trans ?_, e4, e5, e6, e7,
        fun _ => ?_⟩
      · simp only [u, State.chan_respond, State.chan_ticked_ne s z hd]
      · cases n with
        | zero =>
          cases h'
          have : t = u := by simpa [ticks, execAll] using e1.symm
          rw [this]; rfl
        | succ k => exact e8 (Nat.succ_pos k)

/-! ## One byte in ten ticks -/

theorem shiftLeft_eight (v : Byte) : v <<< 1 <<< 1 <<< 1 <<< 1 <<< 1 <<< 1 <<< 1 <<< 1 = 0 := by
  revert v; decide +kernel

/-- The eight data bits of a byte write, from its latch (40_bit_engine.md R135). -/
theorem Channel.eightBits (x : Channel) (v : Byte) :
    (x.writeLatch v).writeBit.writeBit.writeBit.writeBit.writeBit.writeBit.writeBit.writeBit = { x with
      ld := { x.ld with
        sda := if v.getLsbD 0 then .released else .drivenLow
        scl := .drivenLow
        trace := x.ld.trace ++ (msbFirst v).flatMap sendBitEvents }
      be := { x.be with mode := .writing, sh := 0, idx := 8, ackr := false } } := by
  simp only [Channel.writeBit_eq, Channel.writeLatch, shiftLeft_eight, msbFirst, List.flatMap_cons,
    List.flatMap_nil, List.append_assoc, List.append_nil]
  simp

/-- Call 9 with a listed answer. -/
theorem Channel.writeAck_listed (x : Channel) (c : Chan) (b : Bool) (rest : List Bool)
    (h : x.ld.answers = b :: rest) :
    x.writeAck c = { x with
      ld := { x.ld with
        sda := .released
        scl := .drivenLow
        trace := x.ld.trace ++ .release .sda :: takeBitEvents b
        answers := rest }
      be := { x.be with ackr := !b, mode := .idle } } := by
  have e := LineDriver.clockIn_listed (x.ld.release .sda) c b rest rfl h
  simp only [Channel.writeAck, e]
  simp [LineDriver.release, LineDriver.put, lineEvent, ackOf, takeBitEvents]

/-- n data bits sent by ticks in a written-byte state. -/
theorem Channel.bodies_bits (c : Chan) (n : Nat) (x : Channel) (hs : (x.sends c).isSome = true)
    (hm : x.be.mode = .writing) (hi : x.be.idx.val + n ≤ 8) :
    Channel.bodies c n x = .ok (Channel.writeBit^[n] x) := by
  induction n generalizing x with
  | zero => rfl
  | succ n ih =>
    obtain ⟨⟨k, b, nx, st⟩, h⟩ := Option.isSome_iff_exists.1 hs
    have hi' : x.be.idx ≤ 7 := by omega
    have e : x.tickBody c = .ok x.writeBit := by
      obtain ⟨h, -⟩ | ⟨-, -, e⟩ | ⟨-, h, -⟩ | ⟨h, -⟩ := x.tickBody_sends c h
      · rw [hm] at h; cases h
      · exact e
      · exact absurd hi' h
      · rw [hm] at h; cases h
    simp only [Channel.bodies, e]
    have hidx : (x.be.idx + 1).val = x.be.idx.val + 1 := by
      rw [Fin.val_add_one_of_lt]
      simp only [Fin.lt_def, Fin.val_last]; omega
    rw [ih x.writeBit hs hm (by simp only [Channel.writeBit, hidx]; omega)]
    rfl

/-- The first nine ticks of a written byte leave the transaction's fields alone (R172). -/
theorem Channel.bodies_early (c : Chan) (x : Channel) (hs : (x.sends c).isSome = true)
    (hm : x.be.mode = .idle) (n : Nat) (hn : n ≤ 9) :
    ∃ y, Channel.bodies c n x = .ok y ∧ y.te = x.te := by
  cases n with
  | zero => exact ⟨x, rfl, rfl⟩
  | succ n =>
    obtain ⟨⟨k, b, nx, st⟩, h⟩ := Option.isSome_iff_exists.1 hs
    have e : x.tickBody c = .ok (x.writeLatch b) := by
      obtain ⟨-, e⟩ | ⟨h, -, -⟩ | ⟨h, -, -⟩ | ⟨h, -⟩ := x.tickBody_sends c h
      · exact e
      all_goals rw [hm] at h; cases h
    refine ⟨Channel.writeBit^[n] (x.writeLatch b), ?_, ?_⟩
    · simp only [Channel.bodies, e]
      exact Channel.bodies_bits c n _ hs rfl (by simp only [Channel.writeLatch]; simp; omega)
    · clear hn
      have : ∀ m (z : Channel), (Channel.writeBit^[m] z).te = z.te := by
        intro m
        induction m with
        | zero => intro z; rfl
        | succ m ih => intro z; rw [Function.iterate_succ_apply, ih]; rfl
      rw [this]; rfl

/-- Ten ticks send one byte and take its ACK (41_transaction_engine.md R172). -/
theorem Channel.bodies_sendByte (c : Chan) (x : Channel) {k : Kind} {v : Byte} {next : TState} {stop : Bool}
    (hs : x.sends c = some (k, v, next, stop)) (hm : x.be.mode = .idle) (b : Bool) (rest : List Bool)
    (ha : x.ld.answers = b :: rest) :
    Channel.bodies c 10 x = .ok
      { ld := { x.ld with
          sda := .released
          scl := .drivenLow
          trace := x.ld.trace ++ writtenByte v b
          answers := rest }
        be := { x.be with mode := .idle, sh := 0, idx := 8, ackr := !b }
        te := { x.te.byteWritten k (!b) next stop with
          acc := match x.te.st with
            | .addr2 _ => if movedOn (!b) stop then 0 else x.te.acc
            | _ => x.te.acc } } := by
  have hs' : (x.sends c).isSome = true := by simp [hs]
  have e : x.tickBody c = .ok (x.writeLatch v) := by
    obtain ⟨-, e⟩ | ⟨h, -, -⟩ | ⟨h, -, -⟩ | ⟨h, -⟩ := x.tickBody_sends c hs
    · exact e
    all_goals rw [hm] at h; cases h
  have e9 : Channel.bodies c 9 x = .ok (Channel.writeBit^[8] (x.writeLatch v)) := by
    simp only [Channel.bodies, e]
    exact Channel.bodies_bits c 8 _ hs' rfl (by simp [Channel.writeLatch])
  rw [Channel.bodies_add c 9 1 e9]
  have e8 : Channel.writeBit^[8] (x.writeLatch v) = _ := Channel.eightBits x v
  rw [e8]
  simp only [Channel.bodies]
  generalize hz : ({ x with
      ld := { x.ld with
        sda := if v.getLsbD 0 then .released else .drivenLow
        scl := .drivenLow
        trace := x.ld.trace ++ (msbFirst v).flatMap sendBitEvents }
      be := { x.be with mode := .writing, sh := 0, idx := 8, ackr := false } } : Channel) = z
  have hzs : z.sends c = some (k, v, next, stop) := by rw [← hz]; exact hs
  have e10 : z.tickBody c = .ok (z.byteEnd c k next stop) := by
    obtain ⟨h, -⟩ | ⟨-, h, -⟩ | ⟨-, -, e⟩ | ⟨h, -⟩ := z.tickBody_sends c hzs
    · rw [← hz] at h; cases h
    · rw [← hz] at h; simp at h
    · exact e
    · rw [← hz] at h; cases h
  have hza : z.ld.answers = b :: rest := by rw [← hz]; exact ha
  rw [e10]
  simp only [Channel.byteEnd, Channel.writeAck_listed z c b rest hza]
  rw [← hz]
  simp only [writtenByte, TransEngine.byteWritten]
  cases x.te.st <;> simp

/-- Calls 1 to 8 of a byte read with a listed answer. -/
theorem Channel.readBit_listed (x : Channel) (c : Chan) (b : Bool) (rest : List Bool)
    (h : x.ld.sda = .released) (ha : x.ld.answers = b :: rest) :
    x.readBit c = { x with
      ld := { x.ld with
        scl := .drivenLow
        trace := x.ld.trace ++ takeBitEvents b
        answers := rest }
      be := { x.be with
        sh := x.be.sh <<< 1 ||| (BitVec.ofBool b).setWidth 8, idx := x.be.idx + 1 } } := by
  simp only [Channel.readBit, LineDriver.clockIn_listed x.ld c b rest h ha, setBit0_shiftLeft]
  rfl

theorem shiftIn_eight (v : Byte) :
    ((((((((0 : Byte) <<< 1 ||| (BitVec.ofBool (v.getLsbD 7)).setWidth 8) <<< 1 |||
      (BitVec.ofBool (v.getLsbD 6)).setWidth 8) <<< 1 ||| (BitVec.ofBool (v.getLsbD 5)).setWidth 8) <<< 1 |||
      (BitVec.ofBool (v.getLsbD 4)).setWidth 8) <<< 1 ||| (BitVec.ofBool (v.getLsbD 3)).setWidth 8) <<< 1 |||
      (BitVec.ofBool (v.getLsbD 2)).setWidth 8) <<< 1 ||| (BitVec.ofBool (v.getLsbD 1)).setWidth 8) <<< 1 |||
      (BitVec.ofBool (v.getLsbD 0)).setWidth 8 = v := by
  revert v; decide +kernel

/-- A tick in the middle of a read byte. -/
theorem Channel.tickBody_readBit (x : Channel) (c : Chan) {d : RData} (h : x.te.st = .rdata d)
    (hm : x.be.mode = .reading) (hi : x.be.idx.val ≤ 7) : x.tickBody c = .ok (x.readBit c) := by
  rw [x.tickBody_rdata c h]
  have hi' : x.be.idx ≤ 7 := by omega
  obtain ⟨h, -⟩ | ⟨-, -, e⟩ | ⟨-, h, -⟩ | ⟨h, -⟩ := x.readStep_cases c d
  · rw [hm] at h; cases h
  · exact e
  · exact absurd hi' h
  · rw [hm] at h; cases h

theorem Channel.bodies_readBits (c : Chan) (n : Nat) (x : Channel) {d : RData} (h : x.te.st = .rdata d)
    (hm : x.be.mode = .reading) (hi : x.be.idx.val + n ≤ 8) :
    ∃ y, Channel.bodies c n x = .ok y ∧ y.te = x.te ∧ y = (fun z => z.readBit c)^[n] x := by
  induction n generalizing x with
  | zero => exact ⟨x, rfl, rfl, rfl⟩
  | succ n ih =>
    have e := x.tickBody_readBit c h hm (by omega)
    have hidx : (x.be.idx + 1).val = x.be.idx.val + 1 := by
      rw [Fin.val_add_one_of_lt]
      simp only [Fin.lt_def, Fin.val_last]; omega
    obtain ⟨y, e1, e2, e3⟩ := ih (x.readBit c) h hm (by simp only [Channel.readBit, hidx]; omega)
    exact ⟨y, by simp only [Channel.bodies, e, e1], e2, by rw [e3]; rfl⟩

/-- Ten ticks read one byte and answer it. -/
theorem Channel.bodies_readByte (c : Chan) (x : Channel) {d : RData} (h : x.te.st = .rdata d)
    (hm : x.be.mode = .idle) (v : Byte) (rest : List Bool) (ha : x.ld.answers = msbFirst v ++ rest) :
    Channel.bodies c 10 x = .ok
      { ld := { x.ld with
          sda := if sendAck d then .drivenLow else .released
          scl := .drivenLow
          trace := x.ld.trace ++ readByteEvents v (sendAck d)
          answers := rest }
        be := { x.be with mode := .idle, sh := v, idx := 8, acks := sendAck d }
        te := x.te.byteRead d v } := by
  have e : x.tickBody c = .ok (x.readLatch (sendAck d)) := by
    rw [x.tickBody_rdata c h]
    obtain ⟨-, e⟩ | ⟨h, -, -⟩ | ⟨h, -, -⟩ | ⟨h, -⟩ := x.readStep_cases c d
    · exact e
    all_goals rw [hm] at h; cases h
  obtain ⟨y, e1, -, e3⟩ := Channel.bodies_readBits c 8 (x.readLatch (sendAck d)) (d := d) h rfl
    (by simp [Channel.readLatch])
  have e9 : Channel.bodies c 9 x = .ok y := by simp only [Channel.bodies, e]; exact e1
  rw [Channel.bodies_add c 9 1 e9]
  have ey : y = { x with
      ld := { x.ld with
        sda := .released
        scl := .drivenLow
        trace := x.ld.trace ++ .release .sda :: (msbFirst v).flatMap takeBitEvents
        answers := rest }
      be := { x.be with mode := .reading, sh := v, idx := 8, acks := sendAck d } } := by
    rw [e3]
    have ea : x.ld.answers = v.getLsbD 7 :: v.getLsbD 6 :: v.getLsbD 5 :: v.getLsbD 4 :: v.getLsbD 3 ::
      v.getLsbD 2 :: v.getLsbD 1 :: v.getLsbD 0 :: rest := ha
    simp only [Function.iterate_succ_apply, Function.iterate_zero, id]
    rw [Channel.readBit_listed (x.readLatch (sendAck d)) c _ _ rfl ea]
    rw [Channel.readBit_listed _ c _ _ rfl rfl, Channel.readBit_listed _ c _ _ rfl rfl,
      Channel.readBit_listed _ c _ _ rfl rfl, Channel.readBit_listed _ c _ _ rfl rfl,
      Channel.readBit_listed _ c _ _ rfl rfl, Channel.readBit_listed _ c _ _ rfl rfl,
      Channel.readBit_listed _ c _ _ rfl rfl]
    simp only [Channel.readLatch, shiftIn_eight, msbFirst, List.flatMap_cons, List.flatMap_nil]
    simp [LineDriver.release, LineDriver.put, lineEvent]
  have ys : y.te.st = .rdata d := by rw [ey]; exact h
  have e10 : y.tickBody c = .ok { y.readAck with te := y.te.byteRead d y.be.sh } := by
    rw [y.tickBody_rdata c ys]
    obtain ⟨h, -⟩ | ⟨-, h, -⟩ | ⟨-, -, e⟩ | ⟨h, -⟩ := y.readStep_cases c d
    · rw [ey] at h; cases h
    · rw [ey] at h; simp at h
    · exact e
    · rw [ey] at h; cases h
  simp only [Channel.bodies, e10, Channel.readAck_eq]
  rw [ey]
  simp [readByteEvents]

theorem Channel.bodies_readEarly (c : Chan) (x : Channel) {d : RData} (h : x.te.st = .rdata d)
    (hm : x.be.mode = .idle) (n : Nat) (hn : n ≤ 9) :
    ∃ y, Channel.bodies c n x = .ok y ∧ y.te = x.te := by
  cases n with
  | zero => exact ⟨x, rfl, rfl⟩
  | succ n =>
    have e : x.tickBody c = .ok (x.readLatch (sendAck d)) := by
      rw [x.tickBody_rdata c h]
      obtain ⟨-, e⟩ | ⟨h, -, -⟩ | ⟨h, -, -⟩ | ⟨h, -⟩ := x.readStep_cases c d
      · exact e
      all_goals rw [hm] at h; cases h
    obtain ⟨y, e1, e2, -⟩ := Channel.bodies_readBits c n (x.readLatch (sendAck d)) (d := d) h rfl
      (by simp [Channel.readLatch]; omega)
    exact ⟨y, by simp only [Channel.bodies, e, e1], e2⟩

/-! ## Runs that stay inside a transaction -/

/-- n bodies take x to y, and none of the channels before y is Idle: every tick but perhaps the last responds
1 (41_transaction_engine.md R172). -/
def Channel.Runs (c : Chan) (n : Nat) (x y : Channel) : Prop :=
  Channel.bodies c n x = .ok y ∧ ∀ m, m < n → ∃ z, Channel.bodies c m x = .ok z ∧ z.te.st ≠ .idle

/-- Two runs one after the other. -/
theorem Channel.Runs.append {c : Chan} {m n : Nat} {x y z : Channel} (h : Channel.Runs c m x y)
    (h' : Channel.Runs c n y z) : Channel.Runs c (m + n) x z := by
  refine ⟨by rw [Channel.bodies_add c m n h.1]; exact h'.1, fun k hk => ?_⟩
  by_cases hkm : k < m
  · exact h.2 k hkm
  · obtain ⟨w, e, hw⟩ := h'.2 (k - m) (by omega)
    exact ⟨w, by rw [← Nat.add_sub_of_le (Nat.le_of_not_lt hkm), Channel.bodies_add c m _ h.1]; exact e, hw⟩

/-- One tick inside a transaction. -/
theorem Channel.Runs.one {c : Chan} {x y : Channel} (h : x.tickBody c = .ok y) (hx : x.te.st ≠ .idle) :
    Channel.Runs c 1 x y := by
  refine ⟨by simp only [Channel.bodies, h], fun m hm => ?_⟩
  obtain rfl : m = 0 := by omega
  exact ⟨x, rfl, hx⟩

/-- A run that ends in Idle is a sequence of TTICKs on the machine that ends the transaction; nothing but the
channel and its timing sample, the timer and the response changes. -/
theorem Channel.Runs.done {c : Chan} {n : Nat} {s : State} {y : Channel} (h : Channel.Runs c n (s.chan c) y)
    (hn : 0 < n) (hy : y.te.st = .idle) :
    ∃ t m i v, DoneAfter c n s t ∧ t.chan c = y.withTime m i v ∧ (∀ d, d ≠ c → t.chan d = s.chan d) ∧
      t.sq = s.sq ∧ t.fault = s.fault := by
  obtain ⟨t, m, i, v, e1, e2, e3, e4, e5, -, -, e8⟩ := ticks_of_bodies c n s h.1
  refine ⟨t, m, i, v, ⟨e1, by rw [e8 hn]; simp [Channel.free, hy], fun k hk hkn => ?_⟩, e2, e3, e4, e5⟩
  obtain ⟨z, hz, hzi⟩ := h.2 k hkn
  obtain ⟨u, -, -, -, f1, -, -, -, -, -, -, f8⟩ := ticks_of_bodies c k s hz
  exact ⟨u, f1, by rw [f8 hk]; simp [Channel.free, hzi]⟩

/-- Start, one tick. -/
theorem Channel.Runs.start {c : Chan} {x : Channel} {k : Kind} (h : x.te.st = .start k) :
    ∃ y, Channel.Runs c 1 x y ∧ y.ld.trace = x.ld.trace ++ startEvents ∧ y.ld.answers = x.ld.answers ∧
      y.be = x.be ∧ y.te = { x.te with st := .addr k } :=
  ⟨_, .one (x.tickBody_start c h) (by simp [h]), rfl, rfl, rfl, rfl⟩

/-- Restart, one tick. -/
theorem Channel.Runs.restart {c : Chan} {x : Channel} {k : RKind} (h : x.te.st = .restart k) :
    ∃ y, Channel.Runs c 1 x y ∧ y.ld.trace = x.ld.trace ++ startEvents ∧ y.ld.answers = x.ld.answers ∧
      y.be = x.be ∧ y.te = { x.te with st := .addr2 k } :=
  ⟨_, .one (x.tickBody_restart c h) (by simp [h]), rfl, rfl, rfl, rfl⟩

/-- Stop, one tick. -/
theorem Channel.Runs.stop {c : Chan} {x : Channel} {k : Kind} (h : x.te.st = .stop k) :
    ∃ y, Channel.Runs c 1 x y ∧ y.ld.trace = x.ld.trace ++ stopEvents ∧ y.ld.answers = x.ld.answers ∧
      y.ld.sda = .released ∧ y.ld.scl = .released ∧ y.be = x.be ∧ y.te = { x.te with st := .idle } :=
  ⟨_, .one (x.tickBody_stop c h) (by simp [h]), rfl, rfl, rfl, rfl, rfl, rfl⟩

/-- A written byte, ten ticks, its ACK bit at the listed level b. -/
theorem Channel.Runs.send {c : Chan} {x : Channel} {k : Kind} {v : Byte} {next : TState} {stop : Bool}
    (hs : x.sends c = some (k, v, next, stop)) (hm : x.be.mode = .idle) (b : Bool) (rest : List Bool)
    (ha : x.ld.answers = b :: rest) :
    ∃ y, Channel.Runs c 10 x y ∧ y.ld.trace = x.ld.trace ++ writtenByte v b ∧ y.ld.answers = rest ∧
      y.be.mode = .idle ∧ y.te.st = (if b && stop then .stop k else next) ∧ y.te.reg = x.te.reg ∧
      y.te.wval = x.te.wval ∧ y.te.ack = !b ∧ y.te.err = (x.te.err || b) ∧ y.te.vvalid = x.te.vvalid ∧
      y.te.val = x.te.val ∧
      y.te.acc = (match x.te.st with
        | .addr2 _ => if movedOn (!b) stop then 0 else x.te.acc
        | _ => x.te.acc) := by
  have hne : x.te.st ≠ .idle := fun h => by simp [Channel.sends, h] at hs
  refine ⟨_, ⟨Channel.bodies_sendByte c x hs hm b rest ha, fun m h => ?_⟩, rfl, rfl, rfl,
    by simp [TransEngine.byteWritten], rfl, rfl, rfl, by simp [TransEngine.byteWritten], rfl, rfl, rfl⟩
  obtain ⟨y, e, ht⟩ := Channel.bodies_early c x (by simp [hs]) hm m (by omega)
  exact ⟨y, e, by rwa [ht]⟩

/-- A read byte, ten ticks, its bits as listed. -/
theorem Channel.Runs.read {c : Chan} {x : Channel} {d : RData} (h : x.te.st = .rdata d)
    (hm : x.be.mode = .idle) (v : Byte) (rest : List Bool) (ha : x.ld.answers = msbFirst v ++ rest) :
    ∃ y, Channel.Runs c 10 x y ∧ y.ld.trace = x.ld.trace ++ readByteEvents v (sendAck d) ∧
      y.ld.answers = rest ∧ y.be.mode = .idle ∧ y.te = x.te.byteRead d v := by
  refine ⟨_, ⟨Channel.bodies_readByte c x h hm v rest ha, fun m hm' => ?_⟩, rfl, rfl, rfl, rfl⟩
  obtain ⟨y, e, ht⟩ := Channel.bodies_readEarly c x h hm m (by omega)
  exact ⟨y, e, by rw [ht, h]; simp⟩

end Sys2Proof.Machine
end

