-- ==== Sys2Proof/Laws/Sequencer.lean ====
section
/-! SUPPORT. What the sequencer's tick does once its two channel ticks are done
(42_acquisition_sequencer.md R220). -/

namespace Sys2Proof.Machine

/-- A tick of a channel in a coherent state completes. -/
theorem exec_ttick_coherent (c : Chan) (s : State) (h : (s.chan c).coherent = true) :
    ∃ y, (s.chan c).tickBody c = .ok y ∧
      exec (.ttick c) s = .next ((s.ticked c y).respond (.bool (!y.free))) := by
  obtain ⟨y, e⟩ := (s.chan c).tickBody_ok c h
  exact ⟨y, e, exec_ttick_ok c s e⟩

/-- A TTICK that answers a state without a fault ran its body to the end. -/
theorem exec_ttick_inv (c : Chan) (s t : State) (h : exec (.ttick c) s = .next t) (hf : t.fault = none) :
    ∃ y, (s.chan c).tickBody c = .ok y ∧ t = (s.ticked c y).respond (.bool (!y.free)) := by
  cases e : (s.chan c).tickBody c with
  | ok y =>
    rw [exec_ttick_ok c s e] at h
    cases h
    exact ⟨y, rfl, rfl⟩
  | error f =>
    simp only [exec, execTtick, tick_error c s e, Ran.outcome_raised] at h
    cases h
    cases hf

/-- The step of a STICK, on the state u its two ticks leave; the response is still the one before the STICK. -/
def stickStep (resp : Option Response) (u : State) : Host.Outcome State Fault Refusal :=
  ((seqBody ((u.chan .ch0).free && (u.chan .ch1).free) u.bad { u with resp := resp }).bind
    fun _ s => .done s.sq.step s).outcome fun n => .u3 (seqStepCode n)

/-- STICK, where both bodies run to the end: the state the two ticks leave, and the step on it
(42_acquisition_sequencer.md R220). -/
theorem exec_stick_ok (s : State) {y0 y1 : Channel} (e0 : (s.chan .ch0).tickBody .ch0 = .ok y0)
    (e1 : (s.chan .ch1).tickBody .ch1 = .ok y1) :
    ∃ u, execAll [.ttick .ch0, .ttick .ch1] s = .next u ∧ u.fault = s.fault ∧ u.sq = s.sq ∧
      exec .stick s = stickStep s.resp u := by
  have e1' : ((s.ticked .ch0 y0).chan .ch1).tickBody .ch1 = .ok y1 := e1
  have e2 : (((s.ticked .ch0 y0).respond (.bool (!y0.free))).chan .ch1).tickBody .ch1 = .ok y1 := e1
  refine ⟨(((s.ticked .ch0 y0).respond (.bool (!y0.free))).ticked .ch1 y1).respond (.bool (!y1.free)),
    ?_, rfl, rfl, ?_⟩
  · simp only [execAll, exec_ttick_ok .ch0 s e0, exec_ttick_ok .ch1 _ e2]
  · simp only [stickStep, exec, execStick, seqTick, tick_ok .ch0 s e0, tick_ok .ch1 _ e1', Ran.bind_done,
      Bool.not_not]
    rfl

/-- STICK in a coherent state (10_state.md R51): both ticks complete, and the step is run on the state they
leave. -/
theorem exec_stick_coherent (s : State) (h : ∀ c, (s.chan c).coherent = true) :
    ∃ u, execAll [.ttick .ch0, .ttick .ch1] s = .next u ∧ u.fault = s.fault ∧ u.sq = s.sq ∧
      exec .stick s = stickStep s.resp u := by
  obtain ⟨y0, e0⟩ := (s.chan .ch0).tickBody_ok .ch0 (h .ch0)
  obtain ⟨y1, e1⟩ := (s.chan .ch1).tickBody_ok .ch1 (h .ch1)
  exact exec_stick_ok s e0 e1

/-- STICK, where its two ticks leave state u without a fault: the step, run on u
(42_acquisition_sequencer.md R220). -/
theorem exec_stick_of_ticks (s u : State) (h : execAll [.ttick .ch0, .ttick .ch1] s = .next u)
    (hf : u.fault = none) : exec .stick s = stickStep s.resp u := by
  have two : ∀ v, execAll [.ttick .ch1] v = .next u →
      ∃ y, (v.chan .ch1).tickBody .ch1 = .ok y ∧ u = (v.ticked .ch1 y).respond (.bool (!y.free)) := by
    intro v hv
    cases e : exec (.ttick .ch1) v with
    | next t =>
      simp only [execAll, e] at hv
      cases hv
      exact exec_ttick_inv .ch1 v u e hf
    | fault f => simp only [execAll, e] at hv; cases hv
    | refused r => simp only [execAll, e] at hv; cases hv
  cases e : exec (.ttick .ch0) s with
  | next v =>
    have hv : execAll [.ttick .ch1] v = .next u := by rw [← h]; simp only [execAll, e]
    obtain ⟨y1, e1, hu⟩ := two v hv
    have hvf : v.fault = none := by rw [← hf, hu]; rfl
    obtain ⟨y0, e0, rfl⟩ := exec_ttick_inv .ch0 s v e hvf
    obtain ⟨w, hw, -, -, hx⟩ := exec_stick_ok s e0 e1
    rw [h] at hw
    cases hw
    exact hx
  | fault f => simp only [execAll, e] at h; cases h
  | refused r => simp only [execAll, e] at h; cases h

/-- A free channel with a byte mid-sequence makes the requests of a step fault, whatever the other channel is
doing; the sequencer's fields are as they were (60_exceptions.md R273, R277). -/
theorem bothWrite_raises (reg : Byte) (v : PerChan (BitVec 16)) (k : Kind) (s : State)
    (h : ∃ c, (s.chan c).te.st = .idle ∧ (s.chan c).be.mode ≠ .idle) :
    ∃ t, bothWrite reg v k s = .raised .bitEngineBusy t ∧ t.sq = s.sq := by
  simp only [bothWrite]
  obtain ⟨c, hc, hm⟩ := h
  obtain ⟨h0, e⟩ | ⟨-, h0, -⟩ | ⟨-, -, -, e⟩ | ⟨h0, h1, j, -, e⟩ := request_cases .ch0 (some k) reg v.ch0 s
  · cases c
    · exact absurd hc h0
    · obtain ⟨h1, -⟩ | ⟨-, h1, -⟩ | ⟨-, -, -, e'⟩ | ⟨-, h1, -⟩ := request_cases .ch1 (some k) reg v.ch1 s
      · exact absurd hc h1
      · cases h1
      · exact ⟨s, by simp only [e, e', Ran.bind_done, Ran.bind_raised], rfl⟩
      · exact absurd h1 hm
  · cases h0
  · exact ⟨s, by rw [e]; rfl, rfl⟩
  · cases c
    · exact absurd h1 hm
    · rw [e, Ran.bind_done]
      obtain ⟨h1, -⟩ | ⟨-, h1, -⟩ | ⟨-, -, -, e'⟩ | ⟨-, h1, -⟩ := request_cases .ch1 (some k) reg v.ch1
          (s.setChan .ch0 { s.chan .ch0 with te := (s.chan .ch0).te.accept j reg v.ch0 })
      · exact absurd hc h1
      · cases h1
      · exact ⟨s.setChan .ch0 { s.chan .ch0 with te := (s.chan .ch0).te.accept j reg v.ch0 },
          by rw [e', Ran.bind_raised], rfl⟩
      · exact absurd h1 hm

/-- A read request is a write request of 0 as far as it can fault. -/
theorem bothRead_raises (reg : Byte) (k : Kind) (s : State)
    (h : ∃ c, (s.chan c).te.st = .idle ∧ (s.chan c).be.mode ≠ .idle) :
    ∃ t, bothRead reg k s = .raised .bitEngineBusy t ∧ t.sq = s.sq :=
  bothWrite_raises reg { ch0 := 0, ch1 := 0 } k s h

/-- Both requests of a step on two channels at rest (42_acquisition_sequencer.md R220). -/
theorem bothWrite_accepted (reg : Byte) (v : PerChan (BitVec 16)) (k : Kind) (s : State)
    (h : ∀ c, (s.chan c).te.st = .idle ∧ (s.chan c).be.mode = .idle) :
    bothWrite reg v k s = .done ()
      ((s.setChan .ch0 { s.chan .ch0 with te := (s.chan .ch0).te.accept k reg v.ch0 }).setChan .ch1
        { s.chan .ch1 with te := (s.chan .ch1).te.accept k reg v.ch1 }) := by
  unfold bothWrite
  rw [request_accepted .ch0 k reg v.ch0 s (h .ch0).1 (h .ch0).2, Ran.bind_done,
    request_accepted .ch1 k reg v.ch1 _ (by simpa using (h .ch1).1) (by simpa using (h .ch1).2)]
  rfl

theorem bothRead_accepted (reg : Byte) (k : Kind) (s : State)
    (h : ∀ c, (s.chan c).te.st = .idle ∧ (s.chan c).be.mode = .idle) :
    bothRead reg k s = .done ()
      ((s.setChan .ch0 { s.chan .ch0 with te := (s.chan .ch0).te.accept k reg 0 }).setChan .ch1
        { s.chan .ch1 with te := (s.chan .ch1).te.accept k reg 0 }) :=
  bothWrite_accepted reg { ch0 := 0, ch1 := 0 } k s h

/-- Outside step 0 a channel still busy after its tick makes the step do nothing (R228). -/
theorem seqBody_waits (bad : Bool) (s : State) (h : s.sq.step ≠ .s0) : seqBody false bad s = .done () s := by
  unfold seqBody
  cases e : s.sq.step <;> first | exact absurd e h | rfl

/-- Outside step 0 an error on either channel restarts the script (R229). -/
theorem seqBody_restarts (s : State) (h : s.sq.step ≠ .s0) :
    seqBody true true s = .done () { s with sq := { s.sq with
      err := true, step := .s0, poll := if s.sq.step = .s3 then false else s.sq.poll } } := by
  unfold seqBody
  cases e : s.sq.step <;>
    first
    | exact absurd e h
    | simp [seqStep1, seqStep2, seqStep3, seqStep4, seqStep5, State.restart, State.setPoll]

/-- The busy test reads bit 3 of the value (00_scope.md R8, 42_acquisition_sequencer.md R224). -/
theorem busy_eq (v : BitVec 24) : busy v = v.getLsbD 3 := by
  have e : (v.extractLsb' 0 8 &&& Config.busyMask) = if v.getLsbD 3 then 8 else 0 := by
    apply BitVec.eq_of_getLsbD_eq
    intro k hk
    unfold Config.busyMask
    interval_cases k <;> cases e : v.getLsbD 3 <;> simp at e <;> simp [e]
  simp only [busy, e]
  cases v.getLsbD 3 <;> decide

/-- The status written back (R222). -/
theorem maskStatus_eq (v : BitVec 24) : maskStatus v = v.setWidth 16 &&& Config.statusMask := by
  simp only [maskStatus]
  congr 1

/-- `LastValue` on both channels: the value where it is valid, and no draw where both are; nothing but the
draws' count changes (41_transaction_engine.md R163). -/
theorem lastValues_spec (s : State) :
    ∃ (v : PerChan (BitVec 24)) (n : Nat), s.lastValues = (v, { s with draws := n }) ∧
      (∀ c, (s.chan c).te.vvalid = true → v.get c = (s.chan c).te.val) ∧
      ((∀ c, (s.chan c).te.vvalid = true) → n = s.draws) := by
  refine ⟨s.lastValues.1, s.lastValues.2.draws, rfl, ?_, ?_⟩
  · intro c h
    cases c <;> exact if_pos h
  · intro h
    have h0 := h .ch0
    have h1 := h .ch1
    simp only [State.chan, PerChan.get] at h0 h1
    simp [State.lastValues, State.afterLastValue, State.drawIf, State.chan, PerChan.get, h0, h1]

/-- `LastValue` on both channels where both values are valid: the values, and no draw (41_transaction_engine.md
R163). -/
theorem lastValues_valid (s : State) (h : ∀ c, (s.chan c).te.vvalid = true) :
    s.lastValues = ({ ch0 := (s.chan .ch0).te.val, ch1 := (s.chan .ch1).te.val }, s) := by
  have h0 := h .ch0
  have h1 := h .ch1
  simp only [State.chan, PerChan.get] at h0 h1
  simp [State.lastValues, State.lastValue, State.afterLastValue, State.drawIf, State.chan, PerChan.get, h0, h1]

end Sys2Proof.Machine
end

