-- ==== Sys2Proof/Laws/Sound.lean ====
section
/-! SUPPORT. What keeps a channel sound (`Channel.Sound` of Safety.lean): the bus primitives and conditions
keep the trace in step with the lines, and the byte operations and ticks keep the rest. -/

namespace Sys2Proof.Machine

/-- The lines are as the trace says and only released lines were sampled. -/
structure LineDriver.Good (x : LineDriver) : Prop where
  traced : x.Traced
  sampled : x.SampledReleased

theorem lineAfter_append (l : Line) (t : List BusEvent) (e : BusEvent) :
    lineAfter l (t ++ [e]) = lineStep l (lineAfter l t) e := by simp [lineAfter]

/-- An event that is no sample adds no condition on samples. -/
theorem sampled_append {t : List BusEvent} {e : BusEvent}
    (h : ∀ before l b rest, t = before ++ .sample l b :: rest → lineAfter l before = .released)
    (he : ∀ l b, e = .sample l b → lineAfter l t = .released) :
    ∀ before l b rest, t ++ [e] = before ++ .sample l b :: rest → lineAfter l before = .released := by
  intro before l b rest heq
  rcases List.eq_nil_or_concat rest with rfl | ⟨r, z, rfl⟩
  · have : t ++ [e] = before ++ [.sample l b] := heq
    obtain ⟨rfl, h2⟩ := List.append_inj' this rfl
    exact he l b (by simpa using h2)
  · have : t ++ [e] = (before ++ .sample l b :: r) ++ [z] := by simpa using heq
    obtain ⟨h1, -⟩ := List.append_inj' this rfl
    exact h before l b r h1

theorem LineDriver.Good.put {x : LineDriver} (h : x.Good) (l : Line) (v : LineState) : (x.put l v).Good where
  traced m := by
    rw [LineDriver.trace_put, lineAfter_append, ← h.traced m]
    cases l <;> cases v <;> cases m <;> rfl
  sampled := sampled_append h.sampled (by cases v <;> simp [lineEvent])

theorem LineDriver.Good.settle {x : LineDriver} (h : x.Good) : x.settle.Good where
  traced m := by
    rw [LineDriver.trace_settle, lineAfter_append, ← h.traced m]
    cases m <;> rfl
  sampled := sampled_append h.sampled (by simp)

/-- Sampling a released line. -/
theorem LineDriver.Good.sample {x : LineDriver} (h : x.Good) (c : Chan) {l : Line}
    (hl : x.line l = .released) : (x.sample c l).2.Good where
  traced m := by
    rw [LineDriver.trace_sample, lineAfter_append, ← h.traced m]
    cases m <;> rfl
  sampled := by
    have e : (x.sample c l).2.trace = x.trace ++ [.sample l (x.sample c l).1] := rfl
    unfold LineDriver.SampledReleased
    rw [e]
    refine sampled_append h.sampled fun m b hm => ?_
    cases hm
    rw [← h.traced l, hl]

theorem LineDriver.Good.startCond {x : LineDriver} (h : x.Good) : x.startCond.Good :=
  ((((h.put .scl .released).put .sda .released).settle.put .sda .drivenLow).settle).put .scl .drivenLow

theorem LineDriver.Good.stopCond {x : LineDriver} (h : x.Good) : x.stopCond.Good :=
  ((((h.put .sda .drivenLow).settle.put .scl .released).settle).put .sda .released).settle

theorem LineDriver.Good.letGo {x : LineDriver} (h : x.Good) : x.letGo.Good :=
  ((h.put .scl .released).put .sda .released).settle

theorem LineDriver.Good.pulses (n : Nat) {x : LineDriver} (h : x.Good) : (LineDriver.pulses n x).Good := by
  induction n generalizing x with
  | zero => exact h
  | succ n ih => exact ih (((h.put .scl .drivenLow).settle).put .scl .released).settle

/-- Recovery samples released lines only (40_bit_engine.md R137). -/
theorem LineDriver.Good.recover {x : LineDriver} (h : x.Good) (c : Chan) : (x.recover c).2.Good := by
  have g := h.letGo.sample c (l := .scl) rfl
  unfold LineDriver.recover
  split
  · rename_i y e; rw [e] at g; exact g
  · rename_i y e
    have l1 := LineDriver.sample_lines e
    rw [e] at g
    have g2 := g.sample c (l := .sda) (l1.1.trans rfl)
    split
    · rename_i z e2; rw [e2] at g2; exact g2
    · rename_i z e2
      rw [e2] at g2
      have g3 := (g2.pulses Config.recoverPulses).stopCond
      have g4 := g3.sample c (l := .scl) (by rw [LineDriver.stopCond_eq]; rfl)
      unfold LineDriver.verifyFree
      split
      · rename_i w e3; rw [e3] at g4; exact g4
      · rename_i w e3
        have l3 := LineDriver.sample_lines e3
        rw [e3] at g4
        exact g4.sample c (l := .sda) (l3.1.trans (by rw [LineDriver.stopCond_eq]))

theorem LineDriver.Good.putBit_clock {x : LineDriver} (h : x.Good) (b : Bool) : (x.putBit b).clock.Good :=
  ((((h.put .sda _).settle).put .scl .released).settle).put .scl .drivenLow

/-- A bit-time samples SDA released. -/
theorem LineDriver.Good.clockIn {x : LineDriver} (h : x.Good) (c : Chan) (hs : x.sda = .released) :
    (x.clockIn c).2.Good :=
  (((h.settle.put .scl .released).settle).sample c (l := .sda) hs).put .scl .drivenLow

/-- What a byte operation keeps: good lines, and SDA released during a read. -/
structure Channel.Wired (x : Channel) : Prop where
  good : x.ld.Good
  reading : x.be.mode = .reading → x.ld.sda = .released

theorem Channel.Wired.writeByte {x y : Channel} {c : Chan} {v : Byte} (h : x.Wired)
    (e : x.writeByte c v = .ok y) : y.Wired := by
  obtain ⟨-, e'⟩ | ⟨hm, -, e'⟩ | ⟨-, -, e'⟩ | ⟨-, e'⟩ := x.writeByte_cases c v <;> rw [e'] at e <;> cases e
  · exact ⟨h.good, fun hm => by cases hm⟩
  · exact ⟨h.good.putBit_clock _, fun hm' => by rw [show x.writeBit.be.mode = x.be.mode from rfl, hm] at hm'; cases hm'⟩
  · exact ⟨(h.good.put .sda .released).clockIn c rfl, fun hm => by cases hm⟩

theorem Channel.Wired.readByte {x y : Channel} {c : Chan} {a : Bool} (h : x.Wired)
    (e : x.readByte c a = .ok y) : y.Wired := by
  obtain ⟨-, e'⟩ | ⟨hm, -, e'⟩ | ⟨-, -, e'⟩ | ⟨-, e'⟩ := x.readByte_cases c a <;> rw [e'] at e <;> cases e
  · exact ⟨h.good.put .sda .released, fun _ => rfl⟩
  · exact ⟨h.good.clockIn c (h.reading hm), fun _ => h.reading hm⟩
  · exact ⟨h.good.putBit_clock _, fun hm => by cases hm⟩

theorem Channel.Sound.wired {x : Channel} (h : x.Sound) : x.Wired := ⟨⟨h.traced, h.sampled⟩, h.reading⟩

/-- A tick's body keeps the channel sound (10_state.md R51, 41_transaction_engine.md R168). -/
theorem Channel.Sound.tickBody {x y : Channel} {c : Chan} (h : x.Sound) (e : x.tickBody c = .ok y) : y.Sound := by
  have hw := h.wired
  have hc := h.coherent
  have tm : y.te.tvalid = x.te.tvalid ∧ y.te.tmax = x.te.tmax := by
    have := x.tickBody_withTime c x.te.tmax x.te.tid x.te.tvalid
    have e1 : x.withTime x.te.tmax x.te.tid x.te.tvalid = x := rfl
    rw [e1, e] at this
    simp only [Except.map, Except.ok.injEq] at this
    rw [this]; exact ⟨rfl, rfl⟩
  have timed : y.te.tvalid = false ↔ y.te.tmax = 0 := by rw [tm.1, tm.2]; exact h.timed
  have snd : ∀ k v nx stop, x.sends c = some (k, v, nx, stop) → valueState x.te.st = false →
     (∀ z : Channel, z.te.st = nx → z.be.mode = .idle → z.coherent = true) →
     (errorState nx = true ∨ (x.te.err = false ∧ (stop = true ))) →
     (x.be.mode ≠ .reading → ∀ z : Channel, z.te.st = x.te.st → z.be.mode ≠ .reading → z.coherent = true) → x.be.mode ≠ .reading →  y.Sound := by
    intro k v nx stop hs hv hz he hk hr
    have nvv : x.te.vvalid = false := by
      cases hh : x.te.vvalid with
      | false => rfl
      | true => rw [(h.valued hh).2] at hv; cases hv
    obtain ⟨hm, e'⟩ | ⟨hm, hi, e'⟩ | ⟨hm, hi, e'⟩ | ⟨hm, e'⟩ := x.tickBody_sends c hs <;> rw [e'] at e <;> cases e
    · exact ⟨hk hr _ rfl (by simp [Channel.writeLatch]), hw.good.traced, hw.good.sampled, by simp [Channel.writeLatch], h.erring, h.valued, timed⟩
    · have g := hw.good.putBit_clock x.be.sh.msb
      exact ⟨hk hr _ rfl (by simp [Channel.writeBit, hm]), g.traced, g.sampled, by simp [Channel.writeBit, hm], h.erring, h.valued, timed⟩
    · have g := (hw.good.put .sda .released).clockIn c rfl
      refine ⟨?_, g.traced, g.sampled, by simp [Channel.byteEnd, Channel.writeAck], ?_, ?_, timed⟩
      · cases hst : (!(x.writeAck c).be.ackr && stop) with
        | true =>
          have : (x.byteEnd c k nx stop).te.st = .stop k := by simp [Channel.byteEnd, TransEngine.byteWritten, hst]
          simp only [Channel.coherent, this]; rfl
        | false =>
          exact hz _ (by simp [Channel.byteEnd, TransEngine.byteWritten, hst]) rfl
      · intro herr
        cases hst : (!(x.writeAck c).be.ackr && stop) with
        | true =>
          have : (x.byteEnd c k nx stop).te.st = .stop k := by simp [Channel.byteEnd, TransEngine.byteWritten, hst]
          rw [this]; rfl
        | false =>
          have : (x.byteEnd c k nx stop).te.st = nx := by simp [Channel.byteEnd, TransEngine.byteWritten, hst]
          rw [this]
          rcases he with he | ⟨he, hstop⟩
          · exact he
          · subst hstop
            have : (x.byteEnd c k nx true).te.err = (x.te.err || !(x.writeAck c).be.ackr) := rfl
            rw [this, he] at herr
            simp_all
      · intro hvv
        have : (x.byteEnd c k nx stop).te.vvalid = x.te.vvalid := rfl
        rw [this, nvv] at hvv; cases hvv
  have noerr : errorState x.te.st = false → x.te.err = false := by
    intro hh
    cases h' : x.te.err with
    | false => rfl
    | true => rw [h.erring h'] at hh; cases hh
  have noval : valueState x.te.st = false → x.te.vvalid = false := by
    intro hh
    cases h' : x.te.vvalid with
    | false => rfl
    | true => rw [(h.valued h').2] at hh; cases hh
  cases hst : x.te.st with
  | idle => rw [x.tickBody_idle c hst] at e; cases e; exact h
  | start k =>
    have g := hw.good.startCond
    simp only [Channel.tickBody, hst] at e; cases e
    have hm : x.be.mode = .idle := by simpa [Channel.coherent, hst] using hc
    have he := noerr (by rw [hst]; rfl)
    have hv := noval (by rw [hst]; rfl)
    exact ⟨by simp [Channel.condition, Channel.coherent, hm], g.traced, g.sampled, by simp [Channel.condition, hm], by simp [Channel.condition, he], by simp [Channel.condition, hv], timed⟩
  | restart k =>
    have g := hw.good.startCond
    simp only [Channel.tickBody, hst] at e; cases e
    have hm : x.be.mode = .idle := by simpa [Channel.coherent, hst] using hc
    have he := noerr (by rw [hst]; rfl)
    have hv := noval (by rw [hst]; rfl)
    exact ⟨by simp [Channel.condition, Channel.coherent, hm], g.traced, g.sampled, by simp [Channel.condition, hm], by simp [Channel.condition, he], by simp [Channel.condition, hv], timed⟩
  | stop k =>
    have g := hw.good.stopCond
    simp only [Channel.tickBody, hst] at e; cases e
    have hm : x.be.mode = .idle := by simpa [Channel.coherent, hst] using hc
    exact ⟨rfl, g.traced, g.sampled, by simp [Channel.condition, hm], fun _ => rfl, fun hv => ⟨(h.valued hv).1, rfl⟩, timed⟩
  | addr k =>
    have hr : x.be.mode ≠ .reading := by simpa [Channel.coherent, hst] using hc
    refine snd k (addrWrite c) (.reg k) true (by simp [Channel.sends, hst]) (by rw [hst]; rfl) ?_ (.inr ⟨noerr (by rw [hst]; rfl), rfl⟩) ?_ hr
    · intro z hz hm; simp [Channel.coherent, hz, hm]
    · intro _ z hz hm; rw [hst] at hz; simp [Channel.coherent, hz, hm]
  | reg k =>
    have hr : x.be.mode ≠ .reading := by simpa [Channel.coherent, hst] using hc
    refine snd k x.te.reg (afterReg k) true (by simp [Channel.sends, hst]) (by rw [hst]; rfl) ?_ (.inr ⟨noerr (by rw [hst]; rfl), rfl⟩) ?_ hr
    · intro z hz hm; cases k <;> simp [Channel.coherent, hz, hm, afterReg]
    · intro _ z hz hm; rw [hst] at hz; simp [Channel.coherent, hz, hm]
  | wdata d =>
    have hr : x.be.mode ≠ .reading := by simpa [Channel.coherent, hst] using hc
    refine snd (.write (wdataKind d)) (writeByteOf x.te.wval d) (afterWdata d) (stopOnNack d) (by simp [Channel.sends, hst]) (by rw [hst]; rfl) ?_ ?_ ?_ hr
    · intro z hz hm; cases d <;> simp [Channel.coherent, hz, hm, afterWdata]
    · left; cases d <;> rfl
    · intro _ z hz hm; rw [hst] at hz; simp [Channel.coherent, hz, hm]
  | addr2 k =>
    have hr : x.be.mode ≠ .reading := by simpa [Channel.coherent, hst] using hc
    refine snd (.read k) (addrRead c) (.rdata (rdataFirst k)) true (by simp [Channel.sends, hst]) (by rw [hst]; rfl) ?_ (.inr ⟨noerr (by rw [hst]; rfl), rfl⟩) ?_ hr
    · intro z hz hm; simp [Channel.coherent, hz, hm]
    · intro _ z hz hm; rw [hst] at hz; simp [Channel.coherent, hz, hm]
  | rdata d =>
    have hr : x.be.mode ≠ .writing := by simpa [Channel.coherent, hst] using hc
    have he := noerr (by rw [hst]; rfl)
    rw [x.tickBody_rdata c hst] at e
    obtain ⟨hm, e'⟩ | ⟨hm, hi, e'⟩ | ⟨hm, hi, e'⟩ | ⟨hm, e'⟩ := x.readStep_cases c d <;> rw [e'] at e <;> cases e
    · have g := hw.good.put .sda .released
      exact ⟨by simp [Channel.coherent, Channel.readLatch, hst], g.traced, g.sampled, fun _ => rfl, by simp [Channel.readLatch, he], by simp [Channel.readLatch, noval (by rw [hst]; rfl)], timed⟩
    · have g := hw.good.clockIn c (hw.reading hm)
      exact ⟨by simp [Channel.coherent, Channel.readBit, hst, hm], g.traced, g.sampled, fun _ => hw.reading hm, by simp [Channel.readBit, he], by simp [Channel.readBit, noval (by rw [hst]; rfl)], timed⟩
    · have g := hw.good.putBit_clock (!x.be.acks)
      refine ⟨?_, g.traced, g.sampled, by simp [Channel.readAck], by simp [TransEngine.byteRead, he], ?_, timed⟩
      · cases d <;> simp [Channel.coherent, Channel.readAck, TransEngine.byteRead, afterRdata]
      · intro hv
        refine ⟨he, ?_⟩
        simp only [TransEngine.byteRead, noval (by rw [hst]; rfl), Bool.false_or] at hv
        cases d <;> first | rfl | (exact absurd hv (by decide))

end Sys2Proof.Machine
end

