-- ==== Sys2Proof/Machine/HostProgram.lean ====
section
/-! DEFINITION. The host's own program (30_encoding.md R108, R109; 70_reset_and_hazards.md R320, R321): the
agent that issues the commands. It is no part of the block's state (log 16). -/

namespace Sys2Proof.Machine

/-- A jump target: a label `L`, or the nearest earlier numeric label `1b` (R108). -/
inductive Target where
  | named (l : String)
  | back (l : String)
  deriving DecidableEq, Repr

/-- A line of a host program (R108): a command, or a directive. -/
inductive HostLine where
  | command (a : AsmCommand)
  | label (l : String)
  /-- Jump if the last response is true or nonzero. -/
  | bt (t : Target)
  /-- Jump if it is false or zero. -/
  | bf (t : Target)
  /-- Jump if it equals k. -/
  | beq (t : Target) (k : Nat)
  /-- Jump if it differs from k. -/
  | bne (t : Target) (k : Nat)
  | halt
  deriving DecidableEq, Repr

/-- The last response as the directives read it (R108: "true or nonzero", "equals ... the number k"); a
response that is no number gives none. That `()`, a Timing, a Stats and a Reading are no numbers is the model's
DESIGN CHOICE (log 16): R99 leaves the type of a Reading to the configuration, and a configuration that makes
it a number would let these directives read it. -/
def responseNumber : Response → Option Nat
  | .unit => none
  | .bool b => some b.toNat
  | .u8 v => some v.toNat
  | .u24 v => some v.toNat
  | .u3 v => some v.toNat
  | .dur v => some v.toNat
  | .timing _ _ _ _ => none
  | .stats _ _ => none
  | .reading _ => none

/-- The nearest line before i that is the label. -/
def labelBefore (prog : List HostLine) (l : String) : Nat → Option Nat
  | 0 => none
  | i + 1 => if prog[i]? = some (.label l) then some i else labelBefore prog l i

/-- The first line at or after i, of the n lines left, that is the label. -/
def labelFrom (prog : List HostLine) (l : String) : Nat → Nat → Option Nat
  | _, 0 => none
  | i, n + 1 => if prog[i]? = some (.label l) then some i else labelFrom prog l (i + 1) n

/-- The line a target names, seen from line i. -/
def targetLine (prog : List HostLine) (i : Nat) : Target → Option Nat
  | .named l => labelFrom prog l 0 prog.length
  | .back l => labelBefore prog l i

/-- A host program in progress. -/
structure HostRun where
  line : Nat
  machine : State
  deriving DecidableEq, Repr

/-- What one step of the host and the block comes to. -/
inductive HostResult where
  /-- The run goes on. -/
  | running (h : HostRun)
  /-- `halt` with no fault recorded: the final state (R321). -/
  | final (s : State)
  /-- A fault is recorded: the run has no final state (R270, R321). -/
  | faulted (f : Fault)
  /-- No such line or label (a program that runs past its last line without `halt` among them), an ill-formed
  line, or a test of a response that is no number or that no command has given yet. The spec is silent on each;
  that the run ends here is the model's DESIGN CHOICE (log 16). -/
  | malformed
  deriving DecidableEq, Repr

/-- A conditional jump on the last response (R108). Where no command has responded yet there is no last
response: R108 and 70_reset_and_hazards.md R321 say nothing of such a jump, and that the run then ends as
malformed is the model's DESIGN CHOICE (log 16). -/
def hostJump (prog : List HostLine) (h : HostRun) (t : Target) (p : Nat → Bool) : HostResult :=
  match h.machine.resp.bind responseNumber with
  | none => .malformed
  | some n =>
    if p n then
      match targetLine prog h.line t with
      | none => .malformed
      | some i => .running { h with line := i }
    else .running { h with line := h.line + 1 }

/-- The block steps; the host goes to the given line. -/
def hostBlock (s : State) (line : Nat) : HostResult :=
  match step s with
  | .next s => .running { line := line, machine := s }
  | .fault f => .faulted f
  | .refused _ => .malformed

/-- One step of the host: it is held while SSETUP runs (R97, R241), and otherwise executes its next line. -/
def hostStep (prog : List HostLine) (h : HostRun) : HostResult :=
  match h.machine.fault with
  | some f => .faulted f
  | none =>
    if h.machine.sq.sactive then hostBlock h.machine h.line
    else match prog[h.line]? with
      | none => .malformed
      | some (.command a) =>
        match assemble a with
        | none => .malformed
        | some w => hostBlock (h.machine.issue w) (h.line + 1)
      | some (.label _) => .running { h with line := h.line + 1 }
      | some (.bt t) => hostJump prog h t fun n => n ≠ 0
      | some (.bf t) => hostJump prog h t fun n => n = 0
      | some (.beq t k) => hostJump prog h t fun n => n = k
      | some (.bne t k) => hostJump prog h t fun n => n ≠ k
      | some .halt => .final h.machine

/-- n steps of the host, stopping where the run ends. -/
def hostSteps (prog : List HostLine) : Nat → HostRun → HostResult
  | 0, h => .running h
  | n + 1, h =>
    match hostStep prog h with
    | .running h => hostSteps prog n h
    | r => r

/-! ## Pseudo-instructions (R109) -/

/-- `twait c`: tick until the transaction is done. -/
def twait (c : Nat) : List HostLine := [.label "1", .command (.ttick c), .bt (.back "1")]

/-- `twrite c, reg, value, width`. -/
def twrite (c reg value width : Nat) : List HostLine := .command (.treqwr c reg value width) :: twait c

/-- `tread c, reg, width`. -/
def tread (c reg width : Nat) : List HostLine :=
  .command (.treqrd c reg width) :: twait c ++ [.command (.tvalue c)]

/-- `bwbyte c, byte`: ten calls. -/
def bwbyte (c byte : Nat) : List HostLine := List.replicate 10 (.command (.bwrite c byte))

/-- `brbyte c, ack`: ten calls. -/
def brbyte (c ack : Nat) : List HostLine := List.replicate 10 (.command (.bread c ack))

/-- `scycle`: tick the sequencer until it is back at step 0. -/
def scycle : List HostLine := [.label "1", .command .stick, .bne (.back "1") 0]

end Sys2Proof.Machine
end

