-- ==== Sys2Proof/Tests/Slice0.lean ====
section
/-! SUPPORT. The model's own tests: ill-formed assembler commands refused, words written out bit by bit from
30_encoding.md decoded, one step of each command on a small state with the result 95_test_vectors.md or the
rule gives, and a witness for the hypotheses of every obligation that has any. -/

namespace Sys2Proof.Tests

open Sys2Proof Sys2Proof.Machine

/-! ## Helpers -/

/-- The outcome is a next state with this property. -/
def nextHas (o : Host.Outcome State Fault Refusal) (p : State → Bool) : Bool :=
  match o with
  | .next t => p t
  | .fault _ => false
  | .refused _ => false

/-- The outcome is a next state with this response. -/
def responds (o : Host.Outcome State Fault Refusal) (r : Response) : Bool :=
  nextHas o fun t => t.resp = some r ∧ t.fault = none

/-- The outcome is a next state with this fault and no response. -/
def faults (o : Host.Outcome State Fault Refusal) (f : Fault) : Bool :=
  nextHas o fun t => t.fault = some f ∧ t.resp = none

/-- The reset state with channel c changed. -/
def on (c : Chan) (f : Channel → Channel) : State := State.reset.setChan c (f (State.reset.chan c))

/-- The channel with these answers to come from its bus. -/
def answering (a : List Bool) (x : Channel) : Channel := { x with ld := { x.ld with answers := a } }

/-- The channel in this transaction state. -/
def inState (st : TState) (x : Channel) : Channel := { x with te := { x.te with st := st } }

/-- The channel with its BitEngine in this mode and call. -/
def midByte (m : ByteMode) (i : Fin 9) (x : Channel) : Channel :=
  { x with be := { x.be with mode := m, idx := i } }

/-- The channel holding this valid value. -/
def holding (v : BitVec 24) (x : Channel) : Channel :=
  { x with te := { x.te with val := v, vvalid := true } }

/-- The reset state with the script at step n and both channels changed. -/
def stickAt (n : SeqStep) (f : Channel → Channel) : State :=
  { State.reset with
    chans := { ch0 := f (State.reset.chan .ch0), ch1 := f (State.reset.chan .ch1) }
    sq := { Sequencer.reset with step := n } }

/-- The script at step 3 with a poll outstanding and both channels changed. -/
def polling (f : Channel → Channel) : State :=
  { stickAt .s3 f with sq := { Sequencer.reset with step := .s3, poll := true } }

/-! ## WellFormed: one ill-formed command for each check -/

theorem test_wf_channel : (AsmCommand.bstart 2).wf = false := by decide
theorem test_wf_byte : (AsmCommand.bwrite 0 256).wf = false := by decide
theorem test_wf_ack : (AsmCommand.bread 0 2).wf = false := by decide
theorem test_wf_reg : (AsmCommand.treqrd 0 256 8).wf = false := by decide
theorem test_wf_value : (AsmCommand.treqwr 0 0 65536 16).wf = false := by decide
theorem test_wf_any_width : (AsmCommand.treqrd 0 0x30 12).wf = true := by decide
theorem test_assemble_ill_formed : assemble (.ttick 2) = none := by decide

/-! ## Encoding: OP CH W REG IMM, most significant bit first (30_encoding.md R91, R94) -/

theorem test_decode_bstart : decode 0b00001_0_00_00000000_0000000000000000 = some (.bstart .ch0) := by decide
theorem test_decode_bstop : decode 0b00010_1_00_00000000_0000000000000000 = some (.bstop .ch1) := by decide
theorem test_decode_bwrite : decode 0b00011_0_00_00000000_0000000010100101 = some (.bwrite .ch0 0xA5) := by decide
theorem test_decode_bread : decode 0b00100_1_00_00000000_0000000000000001 = some (.bread .ch1 true) := by decide
theorem test_decode_brecover : decode 0b00101_0_00_00000000_0000000000000000 = some (.brecover .ch0) := by decide
theorem test_decode_bready : decode 0b00110_1_00_00000000_0000000000000000 = some (.bready .ch1) := by decide
theorem test_decode_treqwr :
    decode 0b01000_1_01_10000001_1011111011101110 = some (.treqwr .ch1 1 0x81 0xBEEE) := by decide
theorem test_decode_treqrd :
    decode 0b01001_0_10_00010000_0000000000000000 = some (.treqrd .ch0 2 0x10) := by decide
theorem test_decode_ttick : decode 0b01010_1_00_00000000_0000000000000000 = some (.ttick .ch1) := by decide
theorem test_decode_tvalue : decode 0b01011_0_00_00000000_0000000000000000 = some (.tvalue .ch0) := by decide
theorem test_decode_tack : decode 0b01100_1_00_00000000_0000000000000000 = some (.tack .ch1) := by decide
theorem test_decode_terror : decode 0b01101_0_00_00000000_0000000000000000 = some (.terror .ch0) := by decide
theorem test_decode_trecover : decode 0b01110_1_00_00000000_0000000000000000 = some (.trecover .ch1) := by decide
theorem test_decode_ttimings : decode 0b01111_1_00_00000000_0000000000000000 = some (.ttimings .ch1) := by decide
theorem test_decode_trsttim : decode 0b10000_1_00_00000000_0000000000000000 = some (.trsttim .ch1) := by decide
theorem test_decode_ssetok : decode 0b10111_0_00_00000000_0000000000000000 = some .ssetok := by decide
theorem test_decode_stick : decode 0b11000_0_00_00000000_0000000000000000 = some .stick := by decide
theorem test_decode_srdpres : decode 0b11001_1_00_00000000_0000000000000000 = some (.srdpres .ch1) := by decide
theorem test_decode_srdsec : decode 0b11010_0_00_00000000_0000000000000000 = some (.srdsec .ch0) := by decide
theorem test_decode_siserr : decode 0b11011_0_00_00000000_0000000000000000 = some .siserr := by decide
theorem test_decode_stimings : decode 0b11100_0_00_00000000_0000000000000000 = some .stimings := by decide
theorem test_decode_sstats : decode 0b11101_0_00_00000000_0000000000000000 = some .sstats := by decide
theorem test_decode_sdur : decode 0b11110_0_00_00000000_0000000000000000 = some .sdur := by decide
theorem test_decode_ssetup : decode 0b11111_0_00_00000000_0000000000000000 = some .ssetup := by decide

/-- V-E7 to V-E10, V-E12 to V-E17. -/
theorem test_decode_illegal :
    ([0x00000000, 0x38000000, 0x88000000, 0xB0000000, 0xC4000000, 0xFC000000, 0x180001A5, 0x24000002,
      0x4D30FFFF, 0x50000001] : List Word).all (fun w => (decode w).isNone) = true := by decide

/-- V-E5, V-E6 and the assembler's corner cases of 95_test_vectors.md B1. -/
theorem test_decode_width_corner :
    decode 0x43FF1234 = some (.treqwr .ch0 3 0xFF 0x1234) ∧ decode 0x4B000000 = some (.treqrd .ch0 3 0x00) ∧
      assemble (.treqwr 1 0x00 0xFFFF 16) = some 0x4500FFFF ∧
      assemble (.treqrd 0 0x30 12) = some 0x4B300000 := by decide

theorem test_decode_table_word :
    decodeTableWord 32 0xD0000000 = some (.srdsec .ch0) ∧ decodeTableWord 40 0xD0000000 = none := by decide

/-! ## One step of each command -/

/-- V-B1. -/
theorem test_bstart : nextHas (exec (.bstart .ch0) State.reset) (fun t =>
    (t.chan .ch0).ld.trace = startEvents ∧ (t.chan .ch0).ld.sda = .drivenLow ∧
      (t.chan .ch0).ld.scl = .drivenLow ∧ (t.chan .ch1).ld.trace = []) = true := by decide

/-- V-B2. -/
theorem test_bstop : nextHas (exec (.bstop .ch0) State.reset) (fun t =>
    (t.chan .ch0).ld.trace = stopEvents ∧ (t.chan .ch0).ld.sda = .released ∧
      (t.chan .ch0).ld.scl = .released) = true := by decide

/-- V-X5: a host byte is unfinished. -/
theorem test_bstart_mid_byte :
    faults (exec (.bstart .ch0) (on .ch0 (midByte .writing 0))) .bitEngineBusy = true := by decide

/-- V-B3: the ACK sample 0 responds 1. -/
theorem test_bwrite_ack : responds (exec (.bwrite .ch0 0xA5)
    (on .ch0 fun x => answering [false] (midByte .writing 8 x))) (.bool true) = true := by decide

/-- V-X4. -/
theorem test_bwrite_conflict :
    faults (exec (.bwrite .ch0 0) (on .ch0 (midByte .reading 0))) .byteOpConflict = true := by decide

/-- V-B5: the fifth response of a read of 0x12 is 0x01. -/
theorem test_bread_bit : responds (exec (.bread .ch0 false)
    (on .ch0 fun x => answering [true] { x with be := { x.be with mode := .reading, sh := 0, idx := 3 } }))
    (.u8 0x01) = true := by decide

/-- V-B5: call 9 of a read with send-ACK 0 releases SDA. -/
theorem test_bread_nack : nextHas (exec (.bread .ch0 true)
    (on .ch0 fun x => { x with be := { x.be with mode := .reading, sh := 0x12, idx := 8, acks := false } }))
    (fun t => t.resp = some (.u8 0x12) ∧ (t.chan .ch0).ld.trace = sendBitEvents true) = true := by decide

/-- A6. -/
theorem test_brecover_free : nextHas (exec (.brecover .ch0) (on .ch0 (answering [true, true]))) (fun t =>
    t.resp = some (.bool true) ∧ (t.chan .ch0).ld.trace =
      [.release .scl, .release .sda, .settle, .sample .scl true, .sample .sda true]) = true := by decide

/-- V-B7: 53 events, 24 of them Settle. -/
theorem test_brecover_pulses : nextHas (exec (.brecover .ch0)
    (on .ch0 (answering [true, false, true, true]))) (fun t =>
    t.resp = some (.bool true) ∧ (t.chan .ch0).ld.trace.length = 53 ∧
      ((t.chan .ch0).ld.trace.filter (· = .settle)).length = 24) = true := by decide +kernel

/-- V-X6b: no byte is under way. -/
theorem test_bready : responds (exec (.bready .ch0) (on .ch0 (inState (.start (.write .write8)))))
    (.bool true) = true := by decide

/-- A1: an accepted request. -/
theorem test_treqwr : nextHas (exec (.treqwr .ch0 1 0x41 0xBEEF) State.reset) (fun t =>
    t.resp = some (.bool true) ∧ (t.chan .ch0).te.st = .start (.write .write16) ∧
      (t.chan .ch0).te.reg = 0x41 ∧ (t.chan .ch0).te.wval = 0xBEEF) = true := by decide

/-- V-X5b: InvalidWidth is checked before BitEngineBusy. -/
theorem test_treqwr_width : responds (exec (.treqwr .ch0 2 0 0) (on .ch0 (midByte .writing 0)))
    (.bool false) = true := by decide

/-- A1. -/
theorem test_treqrd : nextHas (exec (.treqrd .ch0 2 0x30) State.reset) (fun t =>
    t.resp = some (.bool true) ∧ (t.chan .ch0).te.st = .start (.read .read24) ∧
      (t.chan .ch0).te.reg = 0x30) = true := by decide

/-- A1: busy. -/
theorem test_treqrd_busy : responds (exec (.treqrd .ch0 0 0x44) (on .ch0 (inState (.addr (.read .read8)))))
    (.bool false) = true := by decide

/-- A3: the address not acknowledged leads to Stop. -/
theorem test_ttick_nack : nextHas (exec (.ttick .ch0)
    (on .ch0 fun x => answering [true] (midByte .writing 8 (inState (.addr (.write .write8)) x)))) (fun t =>
    t.resp = some (.bool true) ∧ (t.chan .ch0).te.st = .stop (.write .write8) ∧
      (t.chan .ch0).te.err = true ∧ (t.chan .ch0).te.ack = false) = true := by decide

/-- A4: the last byte of a Read16 ends it: val = 0x001234. -/
theorem test_ttick_last_read : nextHas (exec (.ttick .ch0)
    (on .ch0 fun x => { x with
      be := { x.be with mode := .reading, sh := 0x34, idx := 8, acks := false }
      te := { x.te with st := .rdata .r16d1, acc := 0x12 } })) (fun t =>
    (t.chan .ch0).te.val = 0x001234 ∧ (t.chan .ch0).te.vvalid = true ∧
      (t.chan .ch0).te.st = .stop (.read .read16)) = true := by decide

/-- P1: the value of a finished read. -/
theorem test_tvalue : responds (exec (.tvalue .ch0) (on .ch0 (holding 0x00BEEF))) (.u24 0x00BEEF) = true := by
  decide

/-- B6. -/
theorem test_tack : responds (exec (.tack .ch1) State.reset) (.bool false) = true := by decide

/-- A3. -/
theorem test_terror : responds (exec (.terror .ch0)
    (on .ch0 fun x => { x with te := { x.te with err := true } })) (.bool true) = true := by decide

/-- A7. -/
theorem test_trecover : nextHas (exec (.trecover .ch1) (on .ch1 (answering [false]))) (fun t =>
    t.resp = some (.bool false) ∧ (t.chan .ch1).ld.trace =
      [.release .scl, .release .sda, .settle, .sample .scl false]) = true := by decide

/-- V-X6. -/
theorem test_trecover_owned :
    faults (exec (.trecover .ch0) (on .ch0 (inState (.start (.write .write8))))) .channelOwned = true := by
  decide

/-- A2: the id and name of Write8.Stop. -/
theorem test_ttimings : nextHas (exec (.ttimings .ch0)
    (on .ch0 fun x => { x with te := { x.te with tid := .stop (.write .write8), tvalid := true } })) (fun t =>
    match t.resp with
    | some (.timing ok id _ name) => ok ∧ id = 0x18 ∧ name = "Write8.Stop"
    | _ => false) = true := by decide

/-- A10: ok = 0. -/
theorem test_ttimings_none : nextHas (exec (.ttimings .ch0) State.reset) (fun t =>
    match t.resp with
    | some (.timing ok _ _ _) => !ok
    | _ => false) = true := by decide

/-- P4: the id is kept. -/
theorem test_trsttim : nextHas (exec (.trsttim .ch0)
    (on .ch0 fun x => { x with te := { x.te with tid := .stop (.write .write8), tvalid := true } })) (fun t =>
    (t.chan .ch0).te.tvalid = false ∧ (t.chan .ch0).te.tid = .stop (.write .write8)) = true := by decide

/-- B6. -/
theorem test_ssetok : responds (exec .ssetok State.reset) (.bool false) = true := by decide

/-- V-S14: step 0 on a channel with a transaction of the host's; the other's request is accepted. -/
theorem test_stick_step0 : nextHas (exec .stick (on .ch0 (inState (.start (.write .write8))))) (fun t =>
    t.resp = some (.u3 1) ∧ (t.chan .ch0).te.st = .addr (.write .write8) ∧
      (t.chan .ch1).te.st = .start (.read .read16) ∧ t.sq.step = .s1) = true := by decide

/-- A8: a busy answer polls again. -/
theorem test_stick_busy : nextHas (exec .stick (let s := stickAt .s3 (holding 0x08)
    { s with sq := { s.sq with poll := true } })) (fun t =>
    t.resp = some (.u3 3) ∧ (t.chan .ch0).te.st = .start (.read .read8) ∧ t.sq.poll = true) = true := by decide

/-- A5: sext_24 of 0xFFFFFF is -1, and of 0x800000 is -8388608 (P3). -/
theorem test_sext : sext24 0xFFFFFF = -1 ∧ sext24 0x800000 = -8388608 ∧ sext24 0x7FFFFF = 8388607 := by decide

/-- B6: before the first good cycle a draw is made. -/
theorem test_srdpres_none : nextHas (exec (.srdpres .ch0) State.reset) (fun t => t.draws = 1) = true := by decide

/-- V-X8. -/
theorem test_srdsec : faults (exec (.srdsec .ch1) State.reset) .unmodelled = true := by decide

/-- V-S9. -/
theorem test_siserr : responds (exec .siserr { State.reset with sq := { Sequencer.reset with err := true } })
    (.bool true) = true := by decide

/-- V-S12: a channel without a sample loses. -/
theorem test_stimings : nextHas (exec .stimings
    (on .ch1 fun x => { x with te := { x.te with tid := .addr (.write .write8), tvalid := true } })) (fun t =>
    match t.resp with
    | some (.timing ok id _ name) => ok ∧ id = 0x11 ∧ name = "Write8.Addr"
    | _ => false) = true := by decide

/-- V-S12: with no sample anywhere, ok = 0. -/
theorem test_stimings_none : nextHas (exec .stimings State.reset) (fun t =>
    match t.resp with
    | some (.timing ok _ _ _) => !ok
    | _ => false) = true := by decide

/-- B6. -/
theorem test_sstats : exec .sstats State.reset = .next (State.reset.respond (.stats 0 0)) := by
  rw [show (0 : Config.CounterWord) = 0 - 0 from (BitVec.sub_zero 0).symm]
  simp [exec, execSstats, Ran.outcome, State.reset, Sequencer.reset]

/-- B6. -/
theorem test_sdur : responds (exec .sdur State.reset) (.dur 0) = true := rfl

/-- V-S8: the recoveries of SSETUP, then the first try. -/
theorem test_ssetup : nextHas (exec .ssetup
    { State.reset with chans := { ch0 := answering [true, true] (State.reset.chan .ch0),
                                  ch1 := answering [true, true] (State.reset.chan .ch1) } }) (fun t =>
    t.sq.sactive ∧ t.sq.stries = 1 ∧ (t.chan .ch0).ld.trace.length = 5 ∧
      (t.chan .ch1).ld.trace.length = 5) = true := by decide

/-- V-X6. -/
theorem test_ssetup_owned :
    faults (exec .ssetup (on .ch0 (inState (.start (.write .write8))))) .channelOwned = true := by decide

/-- V-X1 and 60_exceptions.md R270: the fault, and the step after it. -/
theorem test_illegal_word :
    faults (step (State.reset.withFetchWord 32 0x00000000)) .illegalCommand = true ∧
      (match step (State.reset.raise .illegalCommand) with
        | .fault f => decide (f = .illegalCommand)
        | _ => false) = true := by decide

/-- P5: the host's program faults and has no final state. -/
theorem test_program_P5 :
    (match hostSteps [.command (.bwrite 0 0x55), .command (.bstart 0), .halt] 3
        { line := 0, machine := State.reset } with
      | .faulted f => decide (f = .bitEngineBusy)
      | _ => false) = true := by decide

/-- 60_exceptions.md R263, R262: the error kinds of requests. -/
theorem test_error_kinds :
    errorKind (.treqwr .ch0 3 0 0) State.reset = .invalidWidth ∧
      errorKind (.treqrd .ch0 3 0) (on .ch0 (inState (.addr (.read .read8)))) = .busBusy := by decide

/-! ## Names and ids (30_encoding.md R104 to R106) -/

theorem test_state_ids :
    stateId .idle = 0x00 ∧ stateId (.start (.write .write8)) = 0x10 ∧ stateId (.wdata .w16d1) = 0x24 ∧
      stateId (.restart .read8) = 0x36 ∧ stateId (.addr2 .read16) = 0x47 ∧ stateId (.rdata .r24d2) = 0x55 ∧
      stateId (.stop (.read .read24)) = 0x58 := by decide

/-! ## Witnesses: concrete states and operands that meet the hypotheses of each obligation, clause by clause -/

theorem test_meets_EncodeOfDecode : decode 0xF8000000 = some .ssetup := by decide

theorem test_meets_IllegalWordFaults :
    let s := State.reset.issue 0xFC000000
    s.fault = none ∧ s.sq.sactive = false ∧ s.cmds = 0xFC000000 :: [] ∧
      ∀ r ∈ opcodeRows, (0xFC000000 : Word) &&& r.2 ≠ r.1 := ⟨rfl, rfl, rfl, by simp [opcodeRows]⟩

theorem test_meets_StepRunsTheDecodedCommand :
    let s := State.reset.issue 0x08000000
    s.fault = none ∧ s.sq.sactive = false ∧ s.cmds = 0x08000000 :: [] ∧
      decode 0x08000000 = some (.bstart .ch0) := by decide

theorem test_meets_FaultedMachineStops : (State.reset.raise .unmodelled).fault = some .unmodelled := rfl

theorem test_meets_WaitsForTheHost :
    State.reset.fault = none ∧ State.reset.sq.sactive = false ∧ State.reset.cmds = [] := ⟨rfl, rfl, rfl⟩

/-- Inside SSETUP, at the start of a cycle, both channels at rest. -/
def inSetup : State := { stickAt .s0 id with sq := { Sequencer.reset with sactive := true, stries := 10 } }

/-- The script at step 5 of setup's try n, with an error on channel 1. -/
def failing (n : BitVec 4) : State :=
  { State.reset with
    chans := { ch0 := State.reset.chan .ch0,
               ch1 := { State.reset.chan .ch1 with te := { (State.reset.chan .ch1).te with err := true } } }
    sq := { Sequencer.reset with step := .s5, sactive := true, stries := n } }

theorem test_meets_HostIsHeldDuringSetup : inSetup.fault = none ∧ inSetup.sq.sactive = true := ⟨rfl, rfl⟩

/-- A channel with no event and no sample is sound where its transaction and BitEngine agree. -/
theorem sound_of {x : Channel} (hc : x.coherent = true) (hs : x.ld.sda = .released) (hl : x.ld.scl = .released)
    (ht : x.ld.trace = []) (he : x.te.err = false) (hv : x.te.vvalid = false) (hn : x.te.tvalid = false)
    (hm : x.te.tmax = 0) : x.Sound where
  coherent := hc
  traced l := by cases l <;> simp [LineDriver.line, hs, hl, ht, lineAfter]
  sampled before l b rest h := by simp [ht] at h
  reading _ := hs
  erring h := by simp [he] at h
  valued h := by simp [hv] at h
  timed := by simp [hn, hm]

theorem test_meets_StepKeepsTheInvariant :
    ∃ t, ((on .ch0 (inState (.start (.read .read8)))).issue 0x50000000).Inv ∧
      step ((on .ch0 (inState (.start (.read .read8)))).issue 0x50000000) = .next t := by
  refine ⟨_, ⟨?_, ?_, ?_, ?_⟩, rfl⟩
  · intro c
    cases c <;> exact sound_of (by decide) rfl rfl rfl rfl rfl rfl rfl
  · intro h; cases h
  · decide
  · intro h; cases h

theorem test_meets_SetupNeverFaultsInside :
    inSetup.Inv ∧ inSetup.fault = none ∧ inSetup.sq.sactive = true := by
  refine ⟨⟨?_, ?_, ?_, ?_⟩, rfl, rfl⟩
  · intro c
    cases c <;> exact sound_of (by decide) rfl rfl rfl rfl rfl rfl rfl
  · intro h; cases h
  · decide
  · intro _ c _; cases c <;> rfl

/-- BstartSendsAStart, BstopSendsAStop, RecoveryOnAnyBus: a channel at rest. -/
theorem test_meets_AtRest (c : Chan) :
    (State.reset.chan c).te.st = .idle ∧ (State.reset.chan c).be.mode = .idle := by cases c <;> exact ⟨rfl, rfl⟩

/-- ChannelOwnedFault, OnlyTicksMoveATransaction, and RequestAcceptance and RequestErrorPriority on a busy
channel. -/
theorem test_meets_ChannelOwnedFault :
    ((on .ch1 (inState (.stop (.read .read24)))).chan .ch1).te.st ≠ .idle := by decide

theorem test_meets_BitEngineBusyFault :
    let s := on .ch1 (midByte .reading 8)
    (s.chan .ch1).te.st = .idle ∧ (s.chan .ch1).be.mode ≠ .idle ∧ (1 : BitVec 2).toNat < 2 ∧
      (2 : BitVec 2).toNat < 3 ∧ (∀ c, (s.chan c).te.st = .idle) ∧ (∃ c, (s.chan c).be.mode ≠ .idle) :=
  ⟨rfl, by decide, by decide, by decide, fun c => by cases c <;> rfl, .ch1, by decide⟩

/-- BitEngineBusyFault, a STICK in step 0: a transaction of the host's on channel 0, a host byte on channel
1. -/
theorem test_meets_BitEngineBusyFault_step0 :
    let s := { State.reset with chans := { ch0 := inState (.start (.write .write8)) (State.reset.chan .ch0),
                                           ch1 := midByte .writing 3 (State.reset.chan .ch1) } }
    ∃ u, (∀ c, (s.chan c).coherent = true) ∧ execAll [.ttick .ch0, .ttick .ch1] s = .next u ∧
      u.sq.step = .s0 ∧ (u.chan .ch0).te.st ≠ .idle ∧ (u.chan .ch1).te.st = .idle ∧
      (u.chan .ch1).be.mode ≠ .idle :=
  ⟨_, fun c => by cases c <;> rfl, rfl, rfl, by decide, rfl, by decide⟩

/-- BitEngineBusyFault, a STICK in steps 1 to 4 (n), host bytes unfinished: no poll outstanding, a busy answer,
and a poll outstanding with no valid value. -/
theorem test_meets_BitEngineBusyFault_steps (n : SeqStep) :
    (∃ u, (∀ c, ((stickAt n (midByte .writing 0)).chan c).coherent = true) ∧
      execAll [.ttick .ch0, .ttick .ch1] (stickAt n (midByte .writing 0)) = .next u ∧ u.sq.step = n ∧
      u.sq.poll = false ∧ ∀ c, (u.chan c).te.st = .idle ∧ (u.chan c).be.mode ≠ .idle ∧
        (u.chan c).te.err = false) ∧
    (∃ u, execAll [.ttick .ch0, .ttick .ch1] (stickAt n fun x => midByte .writing 0 (holding 0x08 x)) =
        .next u ∧ u.sq.step = n ∧ ∀ c, (u.chan c).te.st = .idle ∧ (u.chan c).be.mode ≠ .idle ∧
          (u.chan c).te.err = false ∧ (u.chan c).te.vvalid = true ∧ (u.chan c).te.val.getLsbD 3 = true) ∧
    ∃ u, execAll [.ttick .ch0, .ttick .ch1] (let s := stickAt n (midByte .writing 0)
        { s with sq := { s.sq with poll := true } }) = .next u ∧ u.sq.step = n ∧ u.sq.poll = true ∧
      ∀ c, (u.chan c).te.st = .idle ∧ (u.chan c).be.mode ≠ .idle ∧ (u.chan c).te.err = false ∧
        (u.chan c).te.vvalid = false := by
  refine ⟨⟨_, fun c => by cases c <;> rfl, rfl, rfl, rfl, fun c => ?_⟩, ⟨_, rfl, rfl, fun c => ?_⟩,
    _, rfl, rfl, rfl, fun c => ?_⟩
  · cases c <;> exact ⟨rfl, nofun, rfl⟩
  · cases c <;> exact ⟨rfl, nofun, rfl, rfl, (by decide : (0x08 : BitVec 24).getLsbD 3 = true)⟩
  · cases c <;> exact ⟨rfl, nofun, rfl, rfl⟩

theorem test_meets_ByteOpConflictFault :
    ((on .ch0 (midByte .reading 0)).chan .ch0).te.st = .idle ∧
      ((on .ch0 (midByte .reading 0)).chan .ch0).be.mode = .reading ∧
      ((on .ch1 (midByte .writing 8)).chan .ch1).te.st = .idle ∧
      ((on .ch1 (midByte .writing 8)).chan .ch1).be.mode = .writing := by decide

/-- The latch, the last data bit and the ACK phase. -/
theorem test_meets_BwriteCallByCall :
    let bit := on .ch0 (midByte .writing 7)
    let ack := on .ch0 fun x => answering [true] (midByte .writing 8 x)
    (State.reset.chan .ch0).te.st = .idle ∧ (State.reset.chan .ch0).be.mode = .idle ∧
      (bit.chan .ch0).te.st = .idle ∧ (bit.chan .ch0).be.mode = .writing ∧ (bit.chan .ch0).be.idx.val ≤ 7 ∧
      (ack.chan .ch0).te.st = .idle ∧ (ack.chan .ch0).be.mode = .writing ∧ (ack.chan .ch0).be.idx.val = 8 ∧
      (ack.chan .ch0).ld.answers = true :: [] := by decide

theorem test_meets_TenBwritesSendAByte :
    let s := on .ch1 (answering [false])
    (s.chan .ch1).te.st = .idle ∧ (s.chan .ch1).be.mode = .idle ∧
      (List.replicate 9 (0x34 : Byte)).length = 9 ∧ (s.chan .ch1).ld.answers = false :: [] := by decide

theorem test_meets_BreadCallByCall :
    let bit := on .ch0 fun x => answering [true] (midByte .reading 7 x)
    let ack := on .ch0 (midByte .reading 8)
    (State.reset.chan .ch0).te.st = .idle ∧ (State.reset.chan .ch0).be.mode = .idle ∧
      (bit.chan .ch0).te.st = .idle ∧ (bit.chan .ch0).be.mode = .reading ∧ (bit.chan .ch0).be.idx.val ≤ 7 ∧
      (bit.chan .ch0).ld.sda = .released ∧ (bit.chan .ch0).ld.answers = true :: [] ∧
      (ack.chan .ch0).te.st = .idle ∧ (ack.chan .ch0).be.mode = .reading ∧
      (ack.chan .ch0).be.idx.val = 8 := by decide

theorem test_meets_TenBreadsReadAByte :
    let s := on .ch1 (answering (msbFirst 0x12))
    (s.chan .ch1).te.st = .idle ∧ (s.chan .ch1).be.mode = .idle ∧
      (List.replicate 9 true).length = 9 ∧ (s.chan .ch1).ld.answers = msbFirst 0x12 ++ [] := by decide

/-- The four cases of the bus's answers. -/
theorem test_meets_RecoveryByAnswers :
    (∀ a : List Bool, ((on .ch0 (answering a)).chan .ch0).te.st = .idle ∧
      ((on .ch0 (answering a)).chan .ch0).be.mode = .idle) ∧
      ((on .ch0 (answering [false])).chan .ch0).ld.answers = false :: [] ∧
      ((on .ch0 (answering [true, true])).chan .ch0).ld.answers = true :: true :: [] ∧
      ((on .ch0 (answering [true, false, false])).chan .ch0).ld.answers = true :: false :: false :: [] ∧
      ((on .ch0 (answering [true, false, true, false])).chan .ch0).ld.answers =
        true :: false :: true :: false :: [] :=
  ⟨fun _ => ⟨rfl, rfl⟩, rfl, rfl, rfl, rfl⟩

theorem test_meets_RequestAcceptance :
    let busy := on .ch0 (inState (.addr (.write .write16)))
    let mid := on .ch0 (midByte .writing 0)
    (busy.chan .ch0).te.st ≠ .idle ∧ (State.reset.chan .ch0).te.st = .idle ∧ (2 : BitVec 2).toNat ≥ 2 ∧
      (3 : BitVec 2).toNat = 3 ∧ (mid.chan .ch0).te.st = .idle ∧ (mid.chan .ch0).be.mode ≠ .idle ∧
      (1 : BitVec 2).toNat < 2 ∧ (2 : BitVec 2).toNat < 3 ∧ (State.reset.chan .ch0).be.mode = .idle := by decide

/-- Idle, Start, Restart and Stop. -/
theorem test_meets_TtickConditions :
    (State.reset.chan .ch0).te.st = .idle ∧
      ((on .ch0 (inState (.start (.write .write16)))).chan .ch0).te.st = .start (.write .write16) ∧
      ((on .ch0 (inState (.restart .read24))).chan .ch0).te.st = .restart .read24 ∧
      ((on .ch0 (inState (.stop (.read .read8)))).chan .ch0).te.st = .stop (.read .read8) := by decide

theorem test_meets_TtickInsideAByte :
    let latch := on .ch0 (inState (.reg (.read .read8)))
    let bit := on .ch0 fun x => midByte .writing 7 (inState (.wdata .w16d1) x)
    let readLatch := on .ch0 (inState (.rdata .r24d2))
    let readBit := on .ch0 fun x => midByte .reading 7 (inState (.rdata .r8d0) x)
    (byteToSend .ch0 (latch.chan .ch0).te = some (latch.chan .ch0).te.reg ∧ (latch.chan .ch0).be.mode = .idle) ∧
      (byteToSend .ch0 (bit.chan .ch0).te = some ((bit.chan .ch0).te.wval.setWidth 8) ∧
        (bit.chan .ch0).be.mode = .writing ∧ (bit.chan .ch0).be.idx.val ≤ 7) ∧
      ((readLatch.chan .ch0).te.st = .rdata .r24d2 ∧ (readLatch.chan .ch0).be.mode = .idle) ∧
      ((readBit.chan .ch0).te.st = .rdata .r8d0 ∧ (readBit.chan .ch0).be.mode = .reading ∧
        (readBit.chan .ch0).be.idx.val ≤ 7 ∧ (readBit.chan .ch0).ld.sda = .released) :=
  ⟨⟨rfl, rfl⟩, ⟨rfl, rfl, by decide⟩, ⟨rfl, rfl⟩, rfl, rfl, by decide, rfl⟩

theorem test_meets_NackHandling :
    let s := on .ch0 fun x => answering [true] (midByte .writing 8 (inState (.wdata .w16d0) x))
    let a := on .ch0 fun x => answering [false] (midByte .writing 8 (inState (.addr2 .read8) x))
    let r := on .ch0 fun x => midByte .reading 8 (inState (.rdata .r8d0) x)
    ((s.chan .ch0).be.idx.val = 8 ∧ nextWithAck (s.chan .ch0).te.st = some (.wdata .w16d1) ∧
      (∃ no, nextWithNack (s.chan .ch0).te.st = some no) ∧ (s.chan .ch0).be.mode = .writing) ∧
    ((a.chan .ch0).be.idx.val = 8 ∧ nextWithAck (a.chan .ch0).te.st = some (.rdata .r8d0) ∧
      nextWithNack (a.chan .ch0).te.st = some (.stop (.read .read8)) ∧ (a.chan .ch0).be.mode = .writing ∧
      ∃ k, (a.chan .ch0).te.st = .addr2 k) ∧
    ((r.chan .ch0).be.idx.val = 8 ∧ (r.chan .ch0).te.st = .rdata .r8d0 ∧ (r.chan .ch0).be.mode = .reading) ∧
    ∃ t, exec (.ttick .ch1) (failing 1) = .next t ∧ ((failing 1).chan .ch1).te.err = true :=
  ⟨⟨rfl, rfl, ⟨_, rfl⟩, rfl⟩, ⟨rfl, rfl, rfl, rfl, _, rfl⟩, ⟨rfl, rfl, rfl⟩, _, rfl, rfl⟩

theorem test_meets_ReadByteEnds :
    let s := on .ch1 fun x => midByte .reading 8 (inState (.rdata .r16d0) x)
    (s.chan .ch1).te.st = .rdata .r16d0 ∧ (s.chan .ch1).be.mode = .reading ∧ (s.chan .ch1).be.idx.val = 8 := by
  decide

/-- The reset state with these counts to pass before the next timer readings. -/
def timed (e : List Nat) : State := { State.reset with timer := { count := 0, elapsed := e, reads := 0 } }

/-- A larger duration, 1, and one that is not larger, 0. -/
theorem test_meets_TtickRecordsTime :
    (∃ t, (timed [0, 1]).fault = none ∧ exec (.ttick .ch0) (timed [0, 1]) = .next t ∧ t.fault = none ∧
      ((timed [0, 1]).chan .ch0).te.tmax <
        BitVec.ofNat Config.timerBits (timed [0, 1]).timer.read.next -
          BitVec.ofNat Config.timerBits (timed [0, 1]).timer.next) ∧
    ∃ t, (timed [7, 0]).fault = none ∧ exec (.ttick .ch0) (timed [7, 0]) = .next t ∧ t.fault = none ∧
      ¬ ((timed [7, 0]).chan .ch0).te.tmax <
        BitVec.ofNat Config.timerBits (timed [7, 0]).timer.read.next -
          BitVec.ofNat Config.timerBits (timed [7, 0]).timer.next := by
  refine ⟨⟨_, rfl, rfl, rfl, ?_⟩, _, rfl, rfl, rfl, ?_⟩
  · show (0 : Config.TimerWord) < BitVec.ofNat Config.timerBits 1 - BitVec.ofNat Config.timerBits 0
    have h : 1 < 2 ^ Config.timerBits := Nat.one_lt_two_pow (Nat.succ_ne_zero _)
    rw [BitVec.lt_def]
    simp [Nat.mod_eq_of_lt h]
  · show ¬ (0 : Config.TimerWord) < BitVec.ofNat Config.timerBits 7 - BitVec.ofNat Config.timerBits 7
    simp

/-- A transaction of this kind about to begin, with these answers to come. -/
def begun (k : Kind) (a : List Bool) : State := on .ch0 fun x => answering a (inState (.start k) x)

/-- The nine cases of TickCounts, each with its kind and its answers. -/
theorem test_meets_TickCounts :
    (∀ k, ((begun k [true]).chan .ch0).te.st = .start k ∧ ((begun k [true]).chan .ch0).be.mode = .idle ∧
      ((begun k [true]).chan .ch0).ld.answers = true :: []) ∧
    (∀ k, ((begun k [false, true]).chan .ch0).ld.answers = false :: true :: []) ∧
    (∀ r, ((begun (.read r) [false, false, true]).chan .ch0).ld.answers = false :: false :: true :: []) ∧
    (∀ last, ((begun (.write .write8) [false, false, last]).chan .ch0).ld.answers =
      false :: false :: last :: []) ∧
    (∀ last, ((begun (.write .write16) [false, false, false, last]).chan .ch0).ld.answers =
      false :: false :: false :: last :: []) ∧
    (∀ last, ((begun (.write .write16) [false, false, true, last]).chan .ch0).ld.answers =
      false :: false :: true :: last :: []) ∧
    ((begun (.read .read8) [false, false, false]).chan .ch0).ld.answers = false :: false :: false :: [] ∧
    ((begun (.read .read16) [false, false, false]).chan .ch0).ld.answers = false :: false :: false :: [] ∧
    ((begun (.read .read24) [false, false, false]).chan .ch0).ld.answers = false :: false :: false :: [] :=
  ⟨fun _ => ⟨rfl, rfl, rfl⟩, fun _ => rfl, fun _ => rfl, fun _ => rfl, fun _ => rfl, fun _ => rfl, rfl, rfl, rfl⟩

/-- TransactionTerminates: a channel in the middle of a byte. -/
theorem test_meets_TransactionTerminates :
    let s := on .ch0 fun x => midByte .reading 8 (inState (.rdata .r24d0) x)
    (s.chan .ch0).coherent = true ∧ (s.chan .ch0).te.st ≠ .idle := by decide

/-- Both write kinds. -/
theorem test_meets_WriteOnTheWire :
    (((begun (.write .write8) [false, false, true]).chan .ch0).te.st = .start (.write .write8) ∧
      ((begun (.write .write8) [false, false, true]).chan .ch0).be.mode = .idle ∧
      ((begun (.write .write8) [false, false, true]).chan .ch0).te.err = false ∧
      ∀ v, [false, false, true] = List.replicate (1 + (writeData .write8 v).length) false ++ true :: []) ∧
    (((begun (.write .write16) [false, false, false, false]).chan .ch0).te.st = .start (.write .write16) ∧
      ((begun (.write .write16) [false, false, false, false]).chan .ch0).be.mode = .idle ∧
      ((begun (.write .write16) [false, false, false, false]).chan .ch0).te.err = false ∧
      ∀ v, [false, false, false, false] =
        List.replicate (1 + (writeData .write16 v).length) false ++ false :: []) :=
  ⟨⟨rfl, rfl, rfl, fun _ => rfl⟩, rfl, rfl, rfl, fun _ => rfl⟩

/-- The NACK frames of WriteOnTheWire: the address, the register, and the first data byte of a Write16, under
whichever value NACK_MID_WRITE has. -/
theorem test_meets_WriteOnTheWire_nack :
    (∀ k a, ((begun (.write k) a).chan .ch0).te.st = .start (.write k) ∧
      ((begun (.write k) a).chan .ch0).be.mode = .idle ∧ ((begun (.write k) a).chan .ch0).ld.answers = a) ∧
    ((begun (.write .write8) [true]).chan .ch0).ld.answers = true :: [] ∧
    ((begun (.write .write8) [false, true]).chan .ch0).ld.answers = false :: true :: [] ∧
    ((Config.nackMidWrite = .shortCircuit ∧
        ((begun (.write .write16) [false, false, true]).chan .ch0).ld.answers =
          false :: false :: true :: []) ∨
      (Config.nackMidWrite = .continueOn ∧
        ((begun (.write .write16) [false, false, true, false]).chan .ch0).ld.answers =
          false :: false :: true :: false :: [])) := by
  refine ⟨fun _ _ => ⟨rfl, rfl, rfl⟩, rfl, rfl, ?_⟩
  cases Config.nackMidWrite
  · exact .inr ⟨rfl, rfl⟩
  · exact .inl ⟨rfl, rfl⟩

/-- The NACK frames of ReadOnTheWire: the address, the register, the read address. -/
theorem test_meets_ReadOnTheWire_nack (k : RKind) :
    ((begun (.read k) [true]).chan .ch0).ld.answers = true :: [] ∧
    ((begun (.read k) [false, true]).chan .ch0).ld.answers = false :: true :: [] ∧
    ((begun (.read k) [false, false, true]).chan .ch0).ld.answers = false :: false :: true :: [] ∧
    ((begun (.read k) [true]).chan .ch0).te.st = .start (.read k) ∧
    ((begun (.read k) [true]).chan .ch0).be.mode = .idle := ⟨rfl, rfl, rfl, rfl, rfl⟩

/-- The three read kinds. -/
theorem test_meets_ReadOnTheWire :
    (∀ k a, ((begun (.read k) a).chan .ch0).te.st = .start (.read k) ∧
      ((begun (.read k) a).chan .ch0).be.mode = .idle ∧ ((begun (.read k) a).chan .ch0).te.err = false ∧
      ((begun (.read k) a).chan .ch0).ld.answers = a) ∧
    ([0xC3] : List Byte).length = 1 ∧ ([0x12, 0x34] : List Byte).length = 2 ∧
    ([0xFF, 0xFF, 0xFF] : List Byte).length = 3 :=
  ⟨fun _ _ => ⟨rfl, rfl, rfl, rfl⟩, rfl, rfl, rfl⟩

theorem test_meets_OnlyTicksMoveATransaction :
    ∃ t, Instr.trsttim .ch0 ≠ .ttick .ch0 ∧ Instr.trsttim .ch0 ≠ .stick ∧
      ((on .ch0 (inState (.addr (.read .read8)))).chan .ch0).te.st ≠ .idle ∧
      exec (.trsttim .ch0) (on .ch0 (inState (.addr (.read .read8)))) = .next t :=
  ⟨_, by decide, by decide, by decide, rfl⟩

theorem test_meets_TvalueResponds :
    ((on .ch0 (holding 5)).chan .ch0).te.vvalid = true ∧ (State.reset.chan .ch0).te.vvalid = false := ⟨rfl, rfl⟩

/-- TtimingsResponds and StimingsResponds: a sample on channel 1 only, and none anywhere. -/
theorem test_meets_TtimingsResponds :
    let s := on .ch1 fun x => { x with te := { x.te with tvalid := true } }
    (s.chan .ch1).te.tvalid = true ∧ (s.chan .ch0).te.tvalid = false := ⟨rfl, rfl⟩

/-- StimingsResponds: no sample anywhere, a tie on both channels, a sample on channel 0 only, and a larger one
on channel 1. -/
theorem test_meets_StimingsResponds :
    ((State.reset.chan .ch0).te.tvalid = false ∧ (State.reset.chan .ch1).te.tvalid = false) ∧
    (∃ x y : TransEngine, x.tvalid = true ∧ y.tvalid = true ∧ y.tmax.toNat ≤ x.tmax.toNat) ∧
    (∃ x y : TransEngine, x.tvalid = true ∧ y.tvalid = false) ∧
    ∃ x y : TransEngine, y.tvalid = true ∧ x.tvalid = true ∧ x.tmax.toNat < y.tmax.toNat := by
  refine ⟨⟨rfl, rfl⟩,
    ⟨{ (State.reset.chan .ch0).te with tvalid := true }, { (State.reset.chan .ch1).te with tvalid := true },
      rfl, rfl, Nat.le_refl _⟩, ⟨{ (State.reset.chan .ch0).te with tvalid := true }, (State.reset.chan .ch1).te,
    rfl, rfl⟩, { (State.reset.chan .ch0).te with tvalid := true },
    { (State.reset.chan .ch1).te with tvalid := true, tmax := BitVec.ofNat _ 1 }, rfl, rfl, ?_⟩
  have h : 1 < 2 ^ Config.timerBits := Nat.one_lt_two_pow (Nat.succ_ne_zero _)
  show (0 : Config.TimerWord).toNat < (BitVec.ofNat Config.timerBits 1).toNat
  simp [Nat.mod_eq_of_lt h]

theorem test_meets_SrdpresResponds :
    let s := { State.reset with sq := { Sequencer.reset with rawvalid := { ch0 := true, ch1 := false } } }
    s.sq.rawvalid.get .ch0 = true ∧ s.sq.rawvalid.get .ch1 = false := ⟨rfl, rfl⟩

/-- StickCompletes, StickStep0: both channels at rest in step 0. -/
theorem test_meets_StickStep0 :
    ∃ u, execAll [.ttick .ch0, .ttick .ch1] State.reset = .next u ∧ u.fault = none ∧ u.sq.step = .s0 ∧
      (∀ c, (u.chan c).te.st = .idle → (u.chan c).be.mode = .idle) ∧
      ∀ c, (State.reset.chan c).coherent = true :=
  ⟨_, rfl, rfl, rfl, fun c _ => by cases c <;> rfl, fun c => by cases c <;> rfl⟩

/-- StickStep0 with a transaction of the host's in progress on channel 0. -/
theorem test_meets_StickStep0_busy :
    ∃ u, execAll [.ttick .ch0, .ttick .ch1] (on .ch0 (inState (.start (.write .write8)))) = .next u ∧
      u.fault = none ∧ u.sq.step = .s0 ∧ (∀ c, (u.chan c).te.st = .idle → (u.chan c).be.mode = .idle) ∧
      ∃ c, (u.chan c).te.st ≠ .idle :=
  ⟨_, rfl, rfl, rfl, fun c _ => by cases c <;> rfl, .ch0, by decide⟩

/-- StickStep1 to StickStep5: both channels idle and error-free at step n. -/
theorem test_meets_StickSteps (n : SeqStep) :
    ∃ u, execAll [.ttick .ch0, .ttick .ch1] (stickAt n (holding 0x08)) = .next u ∧ u.fault = none ∧
      u.sq.step = n ∧ ∀ c, (u.chan c).te.st = .idle ∧ (u.chan c).be.mode = .idle ∧
        (u.chan c).te.err = false ∧ (u.chan c).te.vvalid = true :=
  ⟨_, rfl, rfl, rfl, fun c => by cases c <;> exact ⟨rfl, rfl, rfl, rfl⟩⟩

/-- StickStep3: no poll outstanding; a poll answered busy; a poll answered not busy, a host byte unfinished; a
poll judged where no value is valid. -/
theorem test_meets_StickStep3 :
    (∃ u, execAll [.ttick .ch0, .ttick .ch1] (stickAt .s3 id) = .next u ∧ u.fault = none ∧ u.sq.step = .s3 ∧
      u.sq.poll = false ∧ ∀ c, (u.chan c).te.st = .idle ∧ (u.chan c).te.err = false ∧
        (u.chan c).be.mode = .idle) ∧
    (∃ u, execAll [.ttick .ch0, .ttick .ch1] (polling (holding 0x08)) = .next u ∧ u.sq.poll = true ∧
      ∀ c, (u.chan c).be.mode = .idle ∧ (u.chan c).te.vvalid = true ∧ (u.chan c).te.val.getLsbD 3 = true) ∧
    (∃ u, execAll [.ttick .ch0, .ttick .ch1] (polling fun x => midByte .writing 0 (holding 0xF7 x)) = .next u ∧
      u.sq.poll = true ∧ ∀ c, (u.chan c).te.vvalid = true ∧ (u.chan c).te.val.getLsbD 3 = false) ∧
    ∃ u, execAll [.ttick .ch0, .ttick .ch1] (polling id) = .next u ∧ u.fault = none ∧ u.sq.step = .s3 ∧
      u.sq.poll = true ∧ ∀ c, (u.chan c).te.st = .idle ∧ (u.chan c).te.err = false ∧
        (u.chan c).be.mode = .idle ∧ (u.chan c).te.vvalid = false := by
  refine ⟨⟨_, rfl, rfl, rfl, rfl, fun c => ?_⟩, ⟨_, rfl, rfl, fun c => ?_⟩, ⟨_, rfl, rfl, fun c => ?_⟩,
    _, rfl, rfl, rfl, rfl, fun c => ?_⟩
  · cases c <;> exact ⟨rfl, rfl, rfl⟩
  · cases c <;> exact ⟨rfl, rfl, rfl⟩
  · cases c <;> exact ⟨rfl, rfl⟩
  · cases c <;> exact ⟨rfl, rfl, rfl, rfl⟩

theorem test_meets_StickWaitsForBoth :
    ∃ u, execAll [.ttick .ch0, .ttick .ch1] (stickAt .s4 (inState (.start (.read .read24)))) = .next u ∧
      u.fault = none ∧ u.sq.step ≠ .s0 ∧ ∃ c, (u.chan c).te.st ≠ .idle :=
  ⟨_, rfl, rfl, by decide, .ch1, by decide⟩

theorem test_meets_StickRestartsOnError :
    ∃ u, execAll [.ttick .ch0, .ttick .ch1] (failing 1) = .next u ∧ u.fault = none ∧ u.sq.step ≠ .s0 ∧
      (∀ c, (u.chan c).te.st = .idle) ∧ ∃ c, (u.chan c).te.err = true :=
  ⟨_, rfl, rfl, by decide, fun c => by cases c <;> rfl, .ch1, rfl⟩

theorem test_meets_SetupBegins (c : Chan) :
    (State.reset.chan c).te.st = .idle ∧ (State.reset.chan c).be.mode = .idle := test_meets_AtRest c

/-- The cycle goes on; it fails on the tenth try; it fails on the first; it is good. -/
theorem test_meets_SetupGoesOnAndEnds :
    (∃ u, exec .stick inSetup = .next u ∧ u.fault = none ∧ u.sq.step ≠ .s0) ∧
    (∃ u, exec .stick (failing 10) = .next u ∧ u.fault = none ∧ u.sq.step = .s0 ∧ u.sq.stries = 10) ∧
    (∃ u, exec .stick (failing 1) = .next u ∧ u.fault = none ∧ u.sq.step = .s0 ∧ u.sq.err = true ∧
      u.sq.stries ≠ 10) ∧
    ∃ u, exec .stick (let s := stickAt .s5 (holding 1)
        { s with sq := { s.sq with sactive := true, stries := 1 } }) = .next u ∧
      u.fault = none ∧ u.sq.step = .s0 ∧ u.sq.err = false :=
  ⟨⟨_, rfl, rfl, by decide⟩, ⟨_, rfl, rfl, rfl, rfl⟩, ⟨_, rfl, rfl, rfl, rfl, by decide⟩, _, rfl, rfl, rfl, rfl⟩

theorem test_meets_ChannelsAreIndependent :
    ∃ t, channelOf (.ttick .ch0) = some .ch0 ∧ Chan.ch1 ≠ .ch0 ∧
      exec (.ttick .ch0) (on .ch0 (inState (.start (.read .read8)))) = .next t := ⟨_, rfl, by decide, rfl⟩

/-- TracesOnlyGrow and OnlyTheScriptWritesTheSequencer. -/
theorem test_meets_OnlyTheScriptWritesTheSequencer :
    ∃ t u, step (State.reset.issue 0x08000000) = .next u ∧
      exec (.bstart .ch0) State.reset = .next t ∧ Instr.bstart .ch0 ≠ .stick ∧ Instr.bstart .ch0 ≠ .ssetup ∧
      (stickAt .s0 id).sq.rawvalid.get .ch0 = false ∧
      ({ Sequencer.reset with rawvalid := { ch0 := true, ch1 := true } }).rawvalid.get .ch0 = true :=
  ⟨_, _, rfl, rfl, by decide, by decide, rfl, rfl⟩

theorem test_meets_ScriptFindsChannelsIdle :
    ∃ t, hostDrives .stick = false ∧ (stickAt .s5 (holding 1)).SeqRest ∧
      exec .stick (stickAt .s5 (holding 1)) = .next t ∧ (stickAt .s0 (holding 1)).SeqRest ∧
      (stickAt .s0 (holding 1)).sq.step = .s0 ∧ inSetup.SeqRest ∧ inSetup.sq.sactive = true := by
  refine ⟨_, rfl, ⟨?_, ?_, ?_⟩, rfl, ⟨?_, ?_, ?_⟩, rfl, ⟨?_, ?_, ?_⟩, rfl⟩
  · intro c; cases c <;> rfl
  · intro c _; cases c <;> rfl
  · intro h; cases h
  · intro c; cases c <;> rfl
  · intro c _; cases c <;> rfl
  · intro _ c; cases c <;> rfl
  · intro c; cases c <;> rfl
  · intro c _; cases c <;> rfl
  · intro _ c; cases c <;> rfl

/-- RequestErrorPriority: a busy channel, and an idle one with every width, whether or not a host byte is
unfinished. -/
theorem test_meets_RequestErrorPriority :
    ((on .ch0 (inState (.addr (.read .read8)))).chan .ch0).te.st ≠ .idle ∧
      (State.reset.chan .ch0).te.st = .idle ∧ (2 : BitVec 2).toNat ≥ 2 ∧ (3 : BitVec 2).toNat = 3 ∧
      ((on .ch0 (midByte .writing 0)).chan .ch0).te.st = .idle ∧
      (1 : BitVec 2).toNat < 2 ∧ (2 : BitVec 2).toNat < 3 := by decide

end Sys2Proof.Tests
end

namespace Sys2Proof.Machine

/-! ## The state a piece of pseudocode ends in -/

/-- P holds of the state the pseudocode ends in, whether with a value or at a `raise`. -/
def Ran.Ends {α : Type} (r : Ran α) (P : State → Prop) : Prop :=
  match r with
  | .done _ s => P s
  | .raised _ s => P s

theorem Ran.Ends.bind {α β : Type} {r : Ran α} {k : α → State → Ran β} {P Q : State → Prop} (h : r.Ends P)
    (hf : ∀ s, P s → Q s) (hk : ∀ a s, P s → (k a s).Ends Q) : (r.bind k).Ends Q := by
  cases r with
  | done a s => exact hk a s h
  | raised f s => exact hf s h

theorem Ran.Ends.mono {α : Type} {r : Ran α} {P Q : State → Prop} (h : r.Ends P) (hPQ : ∀ s, P s → Q s) :
    r.Ends Q := by
  cases r with
  | done a s => exact hPQ s h
  | raised f s => exact hPQ s h

/-- The next state of a command differs from the one its pseudocode ends in by the response and the fault. -/
theorem Ran.Ends.next {α : Type} {r : Ran α} {g : α → Response} {P : State → Prop} {t : State} (h : r.Ends P)
    (e : r.outcome g = .next t) : ∃ u, P u ∧ t.chans = u.chans ∧ t.sq = u.sq := by
  cases r with
  | done a s => cases e; exact ⟨s, h, rfl, rfl⟩
  | raised f s => cases e; exact ⟨s, h, rfl, rfl⟩

/-- The ownership guard stops with nothing changed, or the channel is idle (40_bit_engine.md R139). -/
theorem ends_guardOwner {α : Type} {c : Chan} {s : State} {k : Unit → State → Ran α} {P : State → Prop}
    (hf : P s) (hk : (s.chan c).te.st = .idle → (k () s).Ends P) : ((guardOwner c s).bind k).Ends P := by
  rw [guardOwner_eq]
  split
  · exact hk ‹_›
  · exact hf

/-- The mid-byte guard stops with nothing changed, or no byte is mid-sequence. -/
theorem ends_guardReady {α : Type} {c : Chan} {s : State} {k : Unit → State → Ran α} {P : State → Prop}
    (hf : P s) (hk : (s.chan c).be.mode = .idle → (k () s).Ends P) : ((guardReady c s).bind k).Ends P := by
  rw [guardReady_eq]
  split
  · exact hk ‹_›
  · exact hf

theorem ends_putChan {α : Type} {c : Chan} {s : State} {r : Except Fault Channel} {k : Unit → State → Ran α}
    {P : State → Prop} (hf : P s) (hk : ∀ y, r = .ok y → (k () (s.setChan c y)).Ends P) :
    ((s.putChan c r).bind k).Ends P := by
  cases r with
  | ok y => exact hk y rfl
  | error f => exact hf

theorem State.chan_eq_of_chans {s t : State} (h : t.chans = s.chans) (c : Chan) : t.chan c = s.chan c :=
  congrArg (PerChan.get · c) h

/-! ## What the commands do to a channel -/

/-- What a piece of a STICK does to channel c: nothing, a tick, or an accepted request
(41_transaction_engine.md R165, R172). -/
inductive Channel.Scripted (c : Chan) (x : Channel) : Channel → Prop
  | kept : Scripted c x x
  | ticked {y : Channel} (d : Config.TimerWord) (h : x.tickBody c = .ok y) :
      Scripted c x { y with te := y.te.recordTime x.te.st d }
  | asked (k : Kind) (reg : Byte) (value : BitVec 16) (hs : x.te.st = .idle) (hm : x.be.mode = .idle) :
      Scripted c x { x with te := x.te.accept k reg value }

/-- What a query or a timing reset does to a channel (41_transaction_engine.md R180). -/
inductive Channel.Queried (x : Channel) : Channel → Prop
  | kept : Queried x x
  | retimed : Queried x { x with te := x.te.resetTime }

/-- What one command but STICK and SSETUP does to channel c: besides the above a condition or a recovery at
rest (40_bit_engine.md R140, R141, R144), or a call of a byte operation without a transaction (R142, R143). -/
inductive Channel.Moves (c : Chan) (x : Channel) : Channel → Prop
  | scripted {y : Channel} (h : x.Scripted c y) : Moves c x y
  | queried {y : Channel} (h : x.Queried y) : Moves c x y
  | lines {l : LineDriver} (hm : x.be.mode = .idle)
      (hl : l = x.ld.startCond ∨ l = x.ld.stopCond ∨ l = (x.ld.recover c).2) : Moves c x { x with ld := l }
  | wrote {y : Channel} {v : Byte} (hs : x.te.st = .idle) (h : x.writeByte c v = .ok y) : Moves c x y
  | read {y : Channel} {a : Bool} (hs : x.te.st = .idle) (h : x.readByte c a = .ok y) : Moves c x y

/-- From s to t each channel did what R says, and the sequencer nothing. -/
structure State.ByChannel (R : Chan → Channel → Channel → Prop) (s t : State) : Prop where
  sq : t.sq = s.sq
  chans : ∀ c, R c (s.chan c) (t.chan c)

section ByChannel
variable {R : Chan → Channel → Channel → Prop} {s t : State}

theorem State.ByChannel.mono {R' : Chan → Channel → Channel → Prop} (h : s.ByChannel R t)
    (hR : ∀ c x y, R c x y → R' c x y) : s.ByChannel R' t := ⟨h.sq, fun c => hR _ _ _ (h.chans c)⟩

theorem State.ByChannel.of_chans_eq (hR : ∀ c x, R c x x) (hc : t.chans = s.chans) (hq : t.sq = s.sq) :
    s.ByChannel R t := ⟨hq, fun c => by rw [State.chan_eq_of_chans hc]; exact hR c _⟩

theorem State.ByChannel.setChan (hR : ∀ c x, R c x x) {c : Chan} {y : Channel} (h : R c (s.chan c) y)
    (hc : t.chans = s.chans.set c y) (hq : t.sq = s.sq) : s.ByChannel R t := by
  refine ⟨hq, fun d => ?_⟩
  rw [show t.chan d = (s.setChan c y).chan d from State.chan_eq_of_chans (s := s.setChan c y) hc d]
  by_cases hd : d = c
  · subst hd; rw [State.chan_setChan]; exact h
  · rw [State.chan_setChan_ne s y hd]; exact hR d _

theorem State.ByChannel.outcome {α : Type} {r : Ran α} {g : α → Response} (e : r.outcome g = .next t)
    (h : r.Ends (s.ByChannel R)) : s.ByChannel R t := by
  obtain ⟨u, hu, hc, hq⟩ := h.next e
  exact ⟨hq.trans hu.sq, fun c => by rw [State.chan_eq_of_chans hc]; exact hu.chans c⟩

end ByChannel

/-- A query leaves the sequencer and the channels, the timing sample apart (10_state.md R48). -/
theorem exec_queried {i : Instr} {s t : State} (hi : hostDrives i = false) (h1 : i ≠ .stick) (h2 : i ≠ .ssetup)
    (h : exec i s = .next t) : s.ByChannel (fun _ => Channel.Queried) t := by
  have kept : ∀ {u : State}, u.chans = s.chans → u.sq = s.sq → s.ByChannel (fun _ => Channel.Queried) u :=
    State.ByChannel.of_chans_eq fun _ _ => .kept
  cases i with
  | stick => exact absurd rfl h1
  | ssetup => exact absurd rfl h2
  | trsttim c => cases h; exact .setChan (c := c) (fun _ _ => .kept) .retimed rfl rfl
  | bready c | tvalue c | tack c | terror c | ttimings c | srdpres c | srdsec c | ssetok | siserr | stimings
  | sstats | sdur => cases h; exact kept rfl rfl
  | _ => cases hi

theorem tick_byChannel (c : Chan) (s : State) : (tick c s).Ends (s.ByChannel Channel.Scripted) := by
  cases e : (s.chan c).tickBody c with
  | ok y => rw [tick_ok c s e]; exact .setChan (c := c) (fun _ _ => .kept) (.ticked _ e) rfl rfl
  | error f => rw [tick_error c s e]; exact .of_chans_eq (fun _ _ => .kept) rfl rfl

/-- A request touches its own channel only. -/
theorem request_setChan (c : Chan) (k : Option Kind) (reg : Byte) (value : BitVec 16) (s : State) :
    (request c k reg value s).Ends fun t => ∃ y, (s.chan c).Scripted c y ∧ t = s.setChan c y := by
  have kept : ∃ y, (s.chan c).Scripted c y ∧ s = s.setChan c y := ⟨_, .kept, (s.setChan_chan c).symm⟩
  obtain ⟨-, e⟩ | ⟨-, -, e⟩ | ⟨-, -, -, e⟩ | ⟨hs, hm, j, -, e⟩ := request_cases c k reg value s <;> rw [e]
  · exact kept
  · exact kept
  · exact kept
  · exact ⟨_, .asked j reg value hs hm, rfl⟩

theorem request_byChannel (c : Chan) (k : Option Kind) (reg : Byte) (value : BitVec 16) (s : State) :
    (request c k reg value s).Ends (s.ByChannel Channel.Scripted) :=
  (request_setChan c k reg value s).mono fun _ ⟨_, hy, ht⟩ =>
    ht ▸ .setChan (c := c) (fun _ _ => .kept) hy rfl rfl

theorem Channel.Moves.kept {c : Chan} {x : Channel} : x.Moves c x := .queried .kept

theorem recoverCommand_moves (c : Chan) (s : State) :
    (recoverCommand c s).Ends (s.ByChannel Channel.Moves) :=
  have kept : s.ByChannel Channel.Moves s := .of_chans_eq (fun _ _ => .kept) rfl rfl
  ends_guardOwner kept fun _ => ends_guardReady kept fun hm =>
    .setChan (c := c) (fun _ _ => .kept) (.lines hm (.inr (.inr rfl))) rfl rfl

/-- Every command but STICK and SSETUP leaves the sequencer, and does one of the moves to each channel
(10_state.md R48). -/
theorem exec_moves {i : Instr} {s t : State} (h1 : i ≠ .stick) (h2 : i ≠ .ssetup) (h : exec i s = .next t) :
    s.ByChannel Channel.Moves t := by
  have kept : s.ByChannel Channel.Moves s := .of_chans_eq (fun _ _ => .kept) rfl rfl
  have put : ∀ {c : Chan} {y : Channel}, (s.chan c).Moves c y → s.ByChannel Channel.Moves (s.setChan c y) :=
    fun {c} _ hy => .setChan (c := c) (fun _ _ => .kept) hy rfl rfl
  cases hi : hostDrives i with
  | false => exact (exec_queried hi h1 h2 h).mono fun _ _ _ => .queried
  | true =>
    cases i with
    | bstart c =>
      exact .outcome h (ends_guardOwner kept fun _ => ends_guardReady kept fun hm => put (.lines hm (.inl rfl)))
    | bstop c =>
      exact .outcome h (ends_guardOwner kept fun _ => ends_guardReady kept fun hm =>
        put (.lines hm (.inr (.inl rfl))))
    | bwrite c v =>
      exact .outcome h (ends_guardOwner kept fun hs => ends_putChan kept fun y e => put (.wrote hs e))
    | bread c a =>
      exact .outcome h (ends_guardOwner kept fun hs => ends_putChan kept fun y e => put (.read hs e))
    | brecover c | trecover c => exact .outcome h (recoverCommand_moves c s)
    | treqwr c w reg v =>
      exact .outcome h ((request_byChannel c _ reg v s).mono fun _ hu => hu.mono fun _ _ _ => .scripted)
    | treqrd c w reg =>
      exact .outcome h ((request_byChannel c _ reg 0 s).mono fun _ hu => hu.mono fun _ _ _ => .scripted)
    | ttick c => exact .outcome h ((tick_byChannel c s).mono fun _ hu => hu.mono fun _ _ _ => .scripted)
    | _ => cases hi

end Sys2Proof.Machine

namespace Sys2Proof.Machine

/-! ## What a STICK can do -/

/-- What no STICK undoes in the sequencer: a poll is outstanding only in step 3, setup's fields stay, and a valid
reading stays valid (10_state.md R39, R43, R44). -/
structure Sequencer.Follows (a b : Sequencer) : Prop where
  polling : (a.poll = true → a.step = .s3) → b.poll = true → b.step = .s3
  stries : b.stries = a.stries
  sactive : b.sactive = a.sactive
  rawvalid : ∀ c, a.rawvalid.get c = true → b.rawvalid.get c = true

theorem Sequencer.Follows.refl (a : Sequencer) : a.Follows a := ⟨id, rfl, rfl, fun _ => id⟩

/-- Outside step 3 no poll is outstanding, so the script may go to any step. -/
theorem Sequencer.Follows.of_step_ne {a b : Sequencer} (h : a.step ≠ .s3) (hp : b.poll = a.poll)
    (ht : b.stries = a.stries) (ha : b.sactive = a.sactive)
    (hv : ∀ c, a.rawvalid.get c = true → b.rawvalid.get c = true) : a.Follows b :=
  ⟨fun ih hb => absurd (ih (hp ▸ hb)) h, ht, ha, hv⟩

/-- What a piece of a STICK, one tick or the step, does from s to t (42_acquisition_sequencer.md R220). -/
structure State.Scripted (s t : State) : Prop where
  chans : ∀ c, (s.chan c).Scripted c (t.chan c)
  sq : s.sq.Follows t.sq

theorem State.ByChannel.toScripted {s t : State} (h : s.ByChannel Channel.Scripted t) : s.Scripted t :=
  ⟨h.chans, h.sq ▸ .refl _⟩

/-- What the step of a STICK does: it comes home to step 0 only with both channels idle, and then touches
neither (R226, R229). -/
structure State.Stepped (idle : Bool) (s t : State) : Prop extends s.Scripted t where
  home : s.sq.step ≠ .s0 → t.sq.step = .s0 → idle = true ∧ t.chans = s.chans

/-- Both requests of a step, whatever they meet (R220). -/
theorem bothWrite_byChannel (reg : Byte) (v : PerChan (BitVec 16)) (k : Kind) (s : State) :
    (bothWrite reg v k s).Ends (s.ByChannel Channel.Scripted) := by
  refine (request_setChan .ch0 (some k) reg v.ch0 s).bind ?_ ?_
  · rintro _ ⟨y, hy, rfl⟩
    exact .setChan (c := .ch0) (fun _ _ => .kept) hy rfl rfl
  · rintro - _ ⟨y, hy, rfl⟩
    have both : ∀ t, (∃ z, (s.chan .ch1).Scripted .ch1 z ∧ t = (s.setChan .ch0 y).setChan .ch1 z) →
        s.ByChannel Channel.Scripted t := by
      rintro _ ⟨z, hz, rfl⟩
      exact ⟨rfl, fun c => match c with | .ch0 => hy | .ch1 => hz⟩
    exact (request_setChan .ch1 (some k) reg v.ch1 (s.setChan .ch0 y)).bind both fun _ => both

theorem bothRead_byChannel (reg : Byte) (k : Kind) (s : State) :
    (bothRead reg k s).Ends (s.ByChannel Channel.Scripted) :=
  bothWrite_byChannel reg { ch0 := 0, ch1 := 0 } k s

section Steps
variable {s u : State} {r : Ran Unit} {idle bad : Bool}

/-- Requests made in u, the channels as in s, leave the step where it is. -/
theorem State.Stepped.of_requests (hc : u.chans = s.chans) (hq : s.sq.Follows u.sq)
    (hn : u.sq.step = s.sq.step) {t : State} (h : u.ByChannel Channel.Scripted t) : s.Stepped idle t where
  chans c := State.chan_eq_of_chans hc c ▸ h.chans c
  sq := h.sq ▸ hq
  home h0 ht := absurd (hn ▸ h.sq ▸ ht) h0

/-- A step that makes its requests in u and then moves on by f. -/
theorem ends_requests (hc : u.chans = s.chans) (hq : s.sq.Follows u.sq) (hn : u.sq.step = s.sq.step)
    (hr : r.Ends (u.ByChannel Channel.Scripted)) {f : State → State} (hfc : ∀ t, (f t).chans = t.chans)
    (hfq : ∀ t, t.sq = u.sq → s.sq.Follows (f t).sq ∧ (f t).sq.step ≠ .s0) :
    (r.bind fun _ t => .done () (f t)).Ends (s.Stepped idle) :=
  hr.bind (fun _ => .of_requests hc hq hn) fun _ t ht =>
    { chans := fun c => State.chan_eq_of_chans (hfc t) c ▸ State.chan_eq_of_chans hc c ▸ ht.chans c
      sq := (hfq t ht.sq).1
      home := fun _ h => absurd h (hfq t ht.sq).2 }

/-- A step that touches no channel, with both idle. -/
theorem State.Stepped.of_chans_eq (hc : u.chans = s.chans) (hq : s.sq.Follows u.sq) : s.Stepped true u where
  chans c := State.chan_eq_of_chans hc c ▸ .kept
  sq := hq
  home _ _ := ⟨rfl, hc⟩

/-- Steps 1 to 5: wait for both channels, restart on an error, or go on (R220, R228, R229). -/
theorem ends_waiting (hu : s.Stepped true u) (hr : r.Ends (s.Stepped true)) :
    (if !idle then .done () s else if bad then .done () u else r).Ends (s.Stepped idle) := by
  cases idle with
  | false => exact ⟨⟨fun _ => .kept, .refl _⟩, fun h0 h => absurd h h0⟩
  | true =>
    cases bad with
    | true => exact hu
    | false => exact hr

/-- Step 0 before its requests: the attempt counted, the time taken (R221). -/
def State.cycleBegun (s : State) : State :=
  { s with sq := { s.sq with attempts := s.sq.attempts + 1, t0 := s.now }, timer := s.timer.read }

theorem seqStep0_eq (s : State) : seqStep0 s =
    (bothRead Config.regStatus Config.statusReadKind s.cycleBegun).bind fun _ t => .done () (t.setStep .s1) := rfl

theorem seqStep0_stepped (h : s.sq.step = .s0) : (seqStep0 s).Ends (s.Stepped idle) := by
  have ne : s.sq.step ≠ .s3 := by rw [h]; decide
  rw [seqStep0_eq]
  refine ends_requests (s := s) (u := s.cycleBegun) (f := (·.setStep .s1)) rfl (.of_step_ne ne rfl rfl rfl fun _ => id) rfl
    (bothRead_byChannel ..) (fun _ => rfl) fun t ht => ?_
  rw [State.sq_setStep, ht]
  exact ⟨.of_step_ne ne rfl rfl rfl fun _ => id, nofun⟩

theorem restart_stepped (h : s.sq.step ≠ .s3) : s.Stepped true s.restart :=
  .of_chans_eq rfl (.of_step_ne h rfl rfl rfl fun _ => id)

/-- Steps 1, 2 and 4 after their requests. -/
theorem ends_setStep {n : SeqStep} (h : s.sq.step ≠ .s3) (h0 : n ≠ .s0) (hc : u.chans = s.chans)
    (hq : u.sq = s.sq) (hr : r.Ends (u.ByChannel Channel.Scripted)) :
    (r.bind fun _ t => .done () (t.setStep n)).Ends (s.Stepped true) := by
  refine ends_requests hc (hq ▸ .refl _) (by rw [hq]) hr (fun _ => rfl) fun t ht => ?_
  rw [State.sq_setStep, ht, hq]
  exact ⟨.of_step_ne h rfl rfl rfl fun _ => id, h0⟩

theorem seqStep1_stepped (h : s.sq.step = .s1) : (seqStep1 idle bad s).Ends (s.Stepped idle) := by
  have ne : s.sq.step ≠ .s3 := by rw [h]; decide
  exact ends_waiting (restart_stepped ne)
    (ends_setStep ne (by decide) (u := s.lastValues.2) rfl rfl (bothWrite_byChannel ..))

theorem seqStep2_stepped (h : s.sq.step = .s2) : (seqStep2 idle bad s).Ends (s.Stepped idle) := by
  have ne : s.sq.step ≠ .s3 := by rw [h]; decide
  exact ends_waiting (restart_stepped ne) (ends_setStep ne (by decide) rfl rfl (bothWrite_byChannel ..))

theorem seqStep3_stepped (h : s.sq.step = .s3) : (seqStep3 idle bad s).Ends (s.Stepped idle) := by
  have unpolled : ∀ (e : Bool) (n : SeqStep), s.sq.Follows { s.sq with poll := false, err := e, step := n } :=
    fun _ _ => ⟨fun _ hp => (by cases hp), rfl, rfl, fun _ => id⟩
  refine ends_waiting (.of_chans_eq rfl (unpolled true .s0)) ?_
  split
  · refine ends_requests rfl (.refl _) rfl (bothRead_byChannel ..) (fun _ => rfl) fun t ht => ?_
    rw [State.sq_setPoll, ht]
    exact ⟨⟨fun _ _ => h, rfl, rfl, fun _ => id⟩, by rw [h]; decide⟩
  · dsimp only
    split
    · exact (bothRead_byChannel ..).mono fun _ => .of_requests (s := s) (u := s.lastValues.2) rfl (.refl _) rfl
    · exact State.Stepped.of_chans_eq rfl (unpolled s.sq.err .s4)

theorem seqStep4_stepped (h : s.sq.step = .s4) : (seqStep4 idle bad s).Ends (s.Stepped idle) := by
  have ne : s.sq.step ≠ .s3 := by rw [h]; decide
  exact ends_waiting (restart_stepped ne) (ends_setStep ne (by decide) rfl rfl (bothRead_byChannel ..))

theorem seqStep5_stepped (h : s.sq.step = .s5) : (seqStep5 idle bad s).Ends (s.Stepped idle) := by
  have ne : s.sq.step ≠ .s3 := by rw [h]; decide
  exact ends_waiting (restart_stepped ne)
    (State.Stepped.of_chans_eq rfl (.of_step_ne ne rfl rfl rfl fun c _ => by cases c <;> rfl))

end Steps

/-- The step of a STICK, whichever it is (R220). -/
theorem seqBody_stepped (idle bad : Bool) (s : State) : (seqBody idle bad s).Ends (s.Stepped idle) := by
  unfold seqBody
  split
  · exact seqStep0_stepped ‹_›
  · exact seqStep1_stepped ‹_›
  · exact seqStep2_stepped ‹_›
  · exact seqStep3_stepped ‹_›
  · exact seqStep4_stepped ‹_›
  · exact seqStep5_stepped ‹_›

/-- What each piece of a STICK keeps, the STICK keeps. -/
theorem seqTick_keeps {P : State → Prop} (hP : ∀ s t, P s → s.Scripted t → P t) {s : State} (h : P s) :
    (seqTick s).Ends P := by
  have tk : ∀ (c : Chan) (u : State), P u → (tick c u).Ends P := fun c u hu =>
    (tick_byChannel c u).mono fun _ ht => hP _ _ hu ht.toScripted
  refine (tk .ch0 s h).bind (fun _ => id) fun b0 u hu => ?_
  refine (tk .ch1 u hu).bind (fun _ => id) fun b1 v hv => ?_
  have body : (seqBody (!b0 && !b1) v.bad v).Ends P :=
    (seqBody_stepped _ _ v).mono fun _ ht => hP _ _ hv ht.toScripted
  exact body.bind (fun _ => id) fun _ _ hw => hw

/-! ## What SSETUP can do -/

/-- SSETUP's begin stops at a guard with nothing changed, or recovers both channels at rest and starts the first
try (R240). -/
theorem setupBegin_ends (s : State) : (setupBegin s).Ends fun t => t = s ∨
    ((∀ c, (s.chan c).be.mode = .idle) ∧
      (∀ c, t.chan c = { s.chan c with ld := ((s.chan c).ld.recover c).2 }) ∧
      t.sq = { s.sq with sactive := true, stries := 1 }) :=
  ends_guardOwner (.inl rfl) fun _ => ends_guardOwner (.inl rfl) fun _ =>
    ends_guardReady (.inl rfl) fun h0 => ends_guardReady (.inl rfl) fun h1 =>
      .inr ⟨fun c => match c with | .ch0 => h0 | .ch1 => h1, fun c => by cases c <;> rfl, rfl⟩

/-- What SSETUP answers differs from what its begin ends in by the response and the fault. -/
theorem exec_ssetup_next {P : State → Prop} {s t : State} (hb : (setupBegin s).Ends P)
    (h : exec .ssetup s = .next t) : ∃ u, P u ∧ t.chans = u.chans ∧ t.sq = u.sq := by
  simp only [exec, execSsetup] at h
  cases e : setupBegin s with
  | done a u => rw [e] at h hb; cases h; exact ⟨u, hb, rfl, rfl⟩
  | raised f u => rw [e] at h hb; cases h; exact ⟨u, hb, rfl, rfl⟩

/-- An internal STICK of SSETUP and what follows it: the end of setup, a next try while there is one, or nothing
more (R240; log 9). -/
theorem setupAdvance_cases {P : State → Prop} {s : State} (h : (seqTick s).Ends P) :
    ∃ u, P u ∧ (setupAdvance s).chans = u.chans ∧
      ((setupAdvance s).sq = u.sq ∨
        (setupAdvance s).sq = { u.sq with setupok := !u.sq.err, sactive := false } ∨
        (u.setupDone = false ∧ (setupAdvance s).sq = { u.sq with stries := u.sq.stries + 1 })) := by
  unfold setupAdvance
  cases e : seqTick s with
  | raised f u => rw [e] at h; exact ⟨u, h, rfl, .inl rfl⟩
  | done n u =>
    rw [e] at h
    refine ⟨u, h, ?_⟩
    dsimp only
    split
    · exact ⟨rfl, .inl rfl⟩
    · split
      · exact ⟨rfl, .inr (.inl rfl)⟩
      · exact ⟨rfl, .inr (.inr ⟨by simpa using ‹¬ u.setupDone = true›, rfl⟩)⟩

/-! ## What a step of the machine can do -/

/-- A step runs an internal STICK inside SETUP; otherwise it waits or runs the next word (20_memory.md R73). -/
theorem step_cases {s t : State} (h : step s = .next t) :
    (s.sq.sactive = true ∧ t = setupAdvance s) ∨ (s.sq.sactive = false ∧ t = s) ∨
    (s.sq.sactive = false ∧ ∃ w rest, runWord w { s with cmds := rest } = .next t) := by
  unfold step at h
  split at h
  · cases h
  · split at h
    · cases h; exact .inl ⟨‹_›, rfl⟩
    · have hs : s.sq.sactive = false := by simpa using ‹¬ s.sq.sactive = true›
      cases hc : s.cmds with
      | nil => rw [State.fetch_nil s hc] at h; cases h; exact .inr (.inl ⟨hs, rfl⟩)
      | cons w rest => rw [State.fetch_cons s w rest hc] at h; exact .inr (.inr ⟨hs, w, rest, h⟩)

end Sys2Proof.Machine

namespace Sys2Proof.Machine

/-! ## The channels' part of the invariant (10_state.md R51) -/

/-- With no byte mid-sequence every transaction state is coherent. -/
theorem Channel.coherent_of_idle {x : Channel} (h : x.be.mode = .idle) : x.coherent = true := by
  unfold Channel.coherent
  cases x.te.st <;> simp [h]

/-- In a state that writes a byte, any mode but Reading is coherent (R51 (b)). -/
theorem Channel.coherent_of_sends {x : Channel} {c : Chan} (hs : (x.sends c).isSome = true) :
    x.coherent = true ↔ x.be.mode ≠ .reading := by
  unfold Channel.sends at hs
  unfold Channel.coherent
  cases h : x.te.st <;> simp [h] at hs ⊢

/-- After a tick no byte is mid-sequence, or the transaction state is as it was and the channel coherent. -/
theorem Channel.tickBody_midByte {x y : Channel} {c : Chan} (hx : x.coherent = true)
    (e : x.tickBody c = .ok y) : y.be.mode = .idle ∨ (y.te.st = x.te.st ∧ y.coherent = true) := by
  cases hst : x.te.st with
  | idle => rw [x.tickBody_idle c hst] at e; cases e; exact .inr ⟨hst, hx⟩
  | start k =>
    rw [x.tickBody_start c hst] at e; cases e; exact .inl (by simpa [Channel.coherent, hst] using hx)
  | restart k =>
    rw [x.tickBody_restart c hst] at e; cases e; exact .inl (by simpa [Channel.coherent, hst] using hx)
  | stop k =>
    rw [x.tickBody_stop c hst] at e; cases e; exact .inl (by simpa [Channel.coherent, hst] using hx)
  | rdata d =>
    rw [x.tickBody_rdata c hst] at e
    obtain ⟨-, e'⟩ | ⟨hm, -, e'⟩ | ⟨-, -, e'⟩ | ⟨-, e'⟩ := x.readStep_cases c d <;> rw [e'] at e <;> cases e
    · exact .inr ⟨hst, by simp [Channel.coherent, Channel.readLatch, hst]⟩
    · exact .inr ⟨hst, by simp [Channel.coherent, Channel.readBit, hst, hm]⟩
    · exact .inl rfl
  | _ =>
    have hs : (x.sends c).isSome = true := by simp [Channel.sends, hst]
    obtain ⟨⟨k, b, n, stop⟩, hp⟩ := Option.isSome_iff_exists.1 hs
    rw [← hst]
    obtain ⟨-, e'⟩ | ⟨hm, -, e'⟩ | ⟨-, -, e'⟩ | ⟨-, e'⟩ := x.tickBody_sends c hp <;> rw [e'] at e <;> cases e
    · exact .inr ⟨rfl, (Channel.coherent_of_sends (x := x.writeLatch b) hs).2 (by simp [Channel.writeLatch])⟩
    · exact .inr ⟨rfl, (Channel.coherent_of_sends (x := x.writeBit) hs).2 (by simp [Channel.writeBit, hm])⟩
    · exact .inl rfl

/-- Coherent, and no byte of the host's unfinished (R51 (d)). -/
def Channel.Settled (x : Channel) : Prop := x.coherent = true ∧ (x.te.st = .idle → x.be.mode = .idle)

theorem Channel.Settled.of_idle {x : Channel} (h : x.be.mode = .idle) : x.Settled :=
  ⟨Channel.coherent_of_idle h, fun _ => h⟩

/-- Coherence and readiness depend on the transaction state and the mode alone. -/
theorem Channel.Settled.congr {x y : Channel} (h : x.Settled) (hs : y.te.st = x.te.st)
    (hm : y.be.mode = x.be.mode) : y.Settled := by
  unfold Channel.Settled Channel.coherent
  rw [hs, hm]
  exact h

theorem Channel.Settled.tickBody {x y : Channel} {c : Chan} (h : x.Settled) (e : x.tickBody c = .ok y) :
    y.Settled := by
  obtain ⟨hc, hr⟩ := h
  obtain hm | ⟨hs, hy⟩ := Channel.tickBody_midByte hc e
  · exact .of_idle hm
  · refine ⟨hy, fun hi => ?_⟩
    have hx : x.te.st = .idle := hs ▸ hi
    rw [x.tickBody_idle c hx] at e
    cases e
    exact hr hx

theorem Channel.Settled.scripted {x y : Channel} {c : Chan} (h : x.Settled) (hy : x.Scripted c y) :
    y.Settled := by
  cases hy with
  | kept => exact h
  | ticked d e => exact (h.tickBody e).congr rfl rfl
  | asked k reg v hs hm => exact .of_idle hm

/-- Other lines, where no byte is read. -/
theorem Channel.Sound.withLines {x : Channel} (h : x.Sound) {l : LineDriver} (hm : x.be.mode = .idle)
    (hl : l.Good) : Channel.Sound { x with ld := l } where
  coherent := Channel.coherent_of_idle hm
  traced := hl.traced
  sampled := hl.sampled
  reading hr := absurd (hm.symm.trans hr) (by decide)
  erring := h.erring
  valued := h.valued
  timed := h.timed

/-- The timing sample: a new maximum is not 0 (41_transaction_engine.md R172). -/
theorem Channel.Sound.recordTime {x : Channel} (h : x.Sound) (st : TState) (d : Config.TimerWord) :
    Channel.Sound { x with te := x.te.recordTime st d } where
  coherent := h.coherent
  traced := h.traced
  sampled := h.sampled
  reading := h.reading
  erring := h.erring
  valued := h.valued
  timed := by
    cases hd : x.te.exceeds d with
    | false => simpa [TransEngine.recordTime, hd] using h.timed
    | true =>
      have hlt : x.te.tmax < d := by simpa [TransEngine.exceeds] using hd
      have : d ≠ 0#Config.timerBits := by rintro rfl; simp at hlt
      simp [TransEngine.recordTime, hd, this]

/-- An accepted request (41_transaction_engine.md R165). -/
theorem Channel.Sound.accept {x : Channel} (h : x.Sound) (k : Kind) (reg : Byte) (v : BitVec 16)
    (hm : x.be.mode = .idle) : Channel.Sound { x with te := x.te.accept k reg v } where
  coherent := Channel.coherent_of_idle hm
  traced := h.traced
  sampled := h.sampled
  reading := h.reading
  erring he := by cases he
  valued hv := by cases hv
  timed := h.timed

/-- A byte operation of the host's, without a transaction (40_bit_engine.md R142, R143). -/
theorem Channel.Sound.hostByte {x y : Channel} (h : x.Sound) (hs : x.te.st = .idle) (hte : y.te = x.te)
    (hw : y.Wired) : y.Sound where
  coherent := by simp only [Channel.coherent, hte, hs]
  traced := hw.good.traced
  sampled := hw.good.sampled
  reading := hw.reading
  erring := hte ▸ h.erring
  valued := hte ▸ h.valued
  timed := hte ▸ h.timed

theorem Channel.Sound.scripted {x y : Channel} {c : Chan} (h : x.Sound) (hy : x.Scripted c y) : y.Sound := by
  cases hy with
  | kept => exact h
  | ticked d e => exact (h.tickBody e).recordTime _ d
  | asked k reg v hs hm => exact h.accept k reg v hm

theorem Channel.Sound.moves {x y : Channel} {c : Chan} (h : x.Sound) (hy : x.Moves c y) : y.Sound := by
  cases hy with
  | scripted hy => exact h.scripted hy
  | queried hy =>
    cases hy with
    | kept => exact h
    | retimed =>
      exact ⟨h.coherent, h.traced, h.sampled, h.reading, h.erring, h.valued, by simp [TransEngine.resetTime]⟩
  | lines hm hl =>
    have good := h.wired.good
    obtain rfl | rfl | rfl := hl
    · exact h.withLines hm good.startCond
    · exact h.withLines hm good.stopCond
    · exact h.withLines hm (good.recover c)
  | wrote hs e => exact h.hostByte hs (Channel.writeByte_te e) (h.wired.writeByte e)
  | read hs e => exact h.hostByte hs (Channel.readByte_te e) (h.wired.readByte e)

/-! ## The invariant of the machine -/

/-- The pieces of a STICK keep the invariant. -/
theorem State.Inv.scripted {s t : State} (h : s.Inv) (ht : s.Scripted t) : t.Inv where
  channels c := (h.channels c).scripted (ht.chans c)
  polling := ht.sq.polling h.polling
  tries := ht.sq.stries ▸ h.tries
  held ha c :=
    have settled : (s.chan c).Settled := ⟨(h.channels c).coherent, h.held (ht.sq.sactive ▸ ha) c⟩
    (settled.scripted (ht.chans c)).2

/-- A command but STICK and SSETUP, outside SSETUP, keeps the invariant. -/
theorem State.Inv.moves {s t : State} (h : s.Inv) (hs : s.sq.sactive = false)
    (ht : s.ByChannel Channel.Moves t) : t.Inv where
  channels c := (h.channels c).moves (ht.chans c)
  polling := ht.sq ▸ h.polling
  tries := ht.sq ▸ h.tries
  held ha := by rw [ht.sq, hs] at ha; cases ha

/-- Setup's own fields may change: `setupok`, `sactive` to 0, and `stries` up to SETUP_TRIES (R44). -/
theorem State.Inv.ofSetup {s t : State} (h : s.Inv) (hc : t.chans = s.chans) (hs : t.sq.step = s.sq.step)
    (hp : t.sq.poll = s.sq.poll) (ht : t.sq.stries.toNat ≤ Config.setupTries)
    (ha : t.sq.sactive = true → s.sq.sactive = true) : t.Inv where
  channels c := State.chan_eq_of_chans hc c ▸ h.channels c
  polling := hs ▸ hp ▸ h.polling
  tries := ht
  held hta c := State.chan_eq_of_chans hc c ▸ h.held (ha hta) c

theorem State.Inv.congr {s t : State} (h : s.Inv) (hc : t.chans = s.chans) (hq : t.sq = s.sq) : t.Inv :=
  h.ofSetup hc (by rw [hq]) (by rw [hq]) (hq ▸ h.tries) (by rw [hq]; exact id)

/-- The next try of SSETUP is at most the tenth (R240). -/
theorem stries_succ_le {s : State} (h : s.sq.stries.toNat ≤ Config.setupTries) (hd : s.setupDone = false) :
    (s.sq.stries + 1).toNat ≤ Config.setupTries := by
  have ne : s.sq.stries ≠ 10 := by
    simp only [State.setupDone, Bool.or_eq_false_iff, decide_eq_false_iff_not] at hd
    exact hd.2
  unfold Config.setupTries at *
  bv_omega

theorem setupAdvance_inv {s : State} (h : s.Inv) : (setupAdvance s).Inv := by
  obtain ⟨u, hu, hc, hq | hq | ⟨hd, hq⟩⟩ :=
    setupAdvance_cases (seqTick_keeps (fun _ _ hi => hi.scripted) h)
  · exact hu.congr hc hq
  · refine hu.ofSetup hc (by rw [hq]) (by rw [hq]) (by rw [hq]; exact hu.tries) (by rw [hq]; exact nofun)
  · refine hu.ofSetup hc (by rw [hq]) (by rw [hq]) ?_ (by rw [hq]; exact id)
    rw [hq]
    exact stries_succ_le hu.tries hd

theorem setupBegin_inv {s : State} (h : s.Inv) : (setupBegin s).Ends State.Inv := by
  refine (setupBegin_ends s).mono ?_
  rintro t (rfl | ⟨hm, hc, hq⟩)
  · exact h
  · refine ⟨fun c => ?_, by rw [hq]; exact h.polling, by rw [hq]; exact (by decide : 1 ≤ Config.setupTries), fun _ c _ => ?_⟩
    · rw [hc c]
      exact (h.channels c).withLines (hm c) ((h.channels c).wired.good.recover c)
    · rw [hc c]
      exact hm c

/-- Outside SSETUP every command keeps the invariant. -/
theorem exec_inv {i : Instr} {s t : State} (h : s.Inv) (hs : s.sq.sactive = false) (e : exec i s = .next t) :
    t.Inv := by
  by_cases h1 : i = .stick
  · subst h1
    obtain ⟨u, hu, hc, hq⟩ := Ran.Ends.next (seqTick_keeps (fun _ _ hi => hi.scripted) h) e
    exact hu.congr hc hq
  · by_cases h2 : i = .ssetup
    · subst h2
      obtain ⟨u, hu, hc, hq⟩ := exec_ssetup_next (setupBegin_inv h) e
      exact hu.congr hc hq
    · exact h.moves hs (exec_moves h1 h2 e)

/-- Settles O11: a step is an internal STICK of SSETUP, a wait, or the run of one word, and each keeps it. -/
theorem stepKeepsTheInvariant : Obligations.StepKeepsTheInvariant := by
  intro s t h e
  obtain ⟨-, rfl⟩ | ⟨-, rfl⟩ | ⟨hs, w, rest, e⟩ := step_cases e
  · exact setupAdvance_inv h
  · exact h
  · have h' : State.Inv { s with cmds := rest } := h.congr rfl rfl
    unfold runWord at e
    split at e
    · cases e; exact h'.congr rfl rfl
    · exact exec_inv h' hs e

end Sys2Proof.Machine

namespace Sys2Proof.Machine

/-! ## The sequencer's fields -/

/-- A STICK makes no valid reading invalid (10_state.md R43). -/
theorem seqTick_rawvalid (s : State) (c : Chan) (h : s.sq.rawvalid.get c = true) :
    (seqTick s).Ends fun t => t.sq.rawvalid.get c = true :=
  seqTick_keeps (fun _ _ hv ht => ht.sq.rawvalid c hv) h

/-- SSETUP's begin writes no reading (42_acquisition_sequencer.md R240). -/
theorem setupBegin_rawvalid (s : State) : (setupBegin s).Ends fun t => t.sq.rawvalid = s.sq.rawvalid := by
  refine (setupBegin_ends s).mono ?_
  rintro t (rfl | ⟨-, -, hq⟩)
  · rfl
  · rw [hq]

/-- Settles O58: every other command makes a move of its channel, which leaves the sequencer. -/
theorem onlyTheScriptWritesTheSequencer : Obligations.OnlyTheScriptWritesTheSequencer := by
  intro i s t e
  refine ⟨fun h1 h2 => (exec_moves h1 h2 e).sq, fun c hv => ?_⟩
  by_cases h1 : i = .stick
  · subst h1
    obtain ⟨u, hu, -, hq⟩ := Ran.Ends.next (seqTick_rawvalid s c hv) e
    exact hq ▸ hu
  · by_cases h2 : i = .ssetup
    · subst h2
      obtain ⟨u, hu, -, hq⟩ := exec_ssetup_next (setupBegin_rawvalid s) e
      rw [hq, hu]
      exact hv
    · rw [(exec_moves h1 h2 e).sq]
      exact hv

end Sys2Proof.Machine

namespace Sys2Proof.Machine

/-! ## The script finds both channels idle (10_state.md R53) -/

theorem Ran.Ends.and {α : Type} {r : Ran α} {P Q : State → Prop} (hP : r.Ends P) (hQ : r.Ends Q) :
    r.Ends fun t => P t ∧ Q t := by
  cases r with
  | done a s => exact ⟨hP, hQ⟩
  | raised f s => exact ⟨hP, hQ⟩

/-- A STICK in a coherent state (R51): both ticks complete, and the step runs on the state u they leave. -/
theorem seqTick_coherent {s : State} (h : ∀ c, (s.chan c).coherent = true) :
    ∃ u : State, u.sq = s.sq ∧ u.fault = s.fault ∧
      (∀ c, ∃ y d, (s.chan c).tickBody c = .ok y ∧
        u.chan c = { y with te := y.te.recordTime (s.chan c).te.st d }) ∧
      seqTick s = (seqBody ((u.chan .ch0).free && (u.chan .ch1).free) u.bad u).bind
        fun _ t => .done t.sq.step t := by
  obtain ⟨y0, e0⟩ := (s.chan .ch0).tickBody_ok .ch0 (h .ch0)
  obtain ⟨y1, e1⟩ := (s.chan .ch1).tickBody_ok .ch1 (h .ch1)
  have e1' : ((s.ticked .ch0 y0).chan .ch1).tickBody .ch1 = .ok y1 := e1
  refine ⟨(s.ticked .ch0 y0).ticked .ch1 y1, rfl, rfl, fun c => ?_, ?_⟩
  · cases c with
    | ch0 => exact ⟨y0, _, e0, rfl⟩
    | ch1 => exact ⟨y1, _, e1, rfl⟩
  · simp only [seqTick, tick_ok .ch0 s e0, tick_ok .ch1 _ e1', Ran.bind_done, Bool.not_not]
    rfl

/-- Step 0 with both channels at rest: its requests are accepted (42_acquisition_sequencer.md R221). -/
theorem seqStep0_accepted {s : State} (h : ∀ c, (s.chan c).te.st = .idle ∧ (s.chan c).be.mode = .idle) :
    ∃ t, seqStep0 s = .done () t ∧ t.fault = s.fault ∧ t.sq.step = .s1 ∧
      ∀ c, (t.chan c).te = (s.chan c).te.accept Config.statusReadKind Config.regStatus 0 := by
  rw [seqStep0_eq, bothRead_accepted _ _ s.cycleBegun h, Ran.bind_done]
  exact ⟨_, rfl, rfl, rfl, fun c => by cases c <;> rfl⟩

theorem State.SeqRest.settled {s : State} (h : s.SeqRest) (c : Chan) : (s.chan c).Settled :=
  ⟨h.coherent c, h.idleReady c⟩

/-- A STICK at step 0: the ticks pass over the idle channels, and both status reads are accepted (R221). -/
theorem seqTick_atRest {s : State} (h : s.SeqRest) (h0 : s.sq.step = .s0) :
    ∃ t, seqTick s = .done .s1 t ∧ t.fault = s.fault ∧ t.sq.step = .s1 ∧
      ∀ c, (t.chan c).te.st = .start (.read .read16) ∧ (t.chan c).te.reg = Config.regStatus := by
  obtain ⟨u, hq, hf, hc, e⟩ := seqTick_coherent h.coherent
  have idle : ∀ c, (u.chan c).te.st = .idle ∧ (u.chan c).be.mode = .idle := by
    intro c
    have hs := h.rest h0 c
    obtain ⟨y, d, ey, hu⟩ := hc c
    rw [Channel.tickBody_idle _ c hs] at ey
    cases ey
    rw [hu]
    exact ⟨hs, h.idleReady c hs⟩
  obtain ⟨t, et, hft, hst, hct⟩ := seqStep0_accepted idle
  refine ⟨t, ?_, hft.trans hf, hst, fun c => by rw [hct c]; exact ⟨rfl, rfl⟩⟩
  rw [e, seqBody, hq, h0, et, Ran.bind_done, hst]

/-- A STICK comes home to step 0 only with both channels idle (R226, R229). -/
theorem seqTick_home {s : State} (h : s.SeqRest) :
    (seqTick s).Ends fun t => t.sq.step = .s0 → ∀ c, (t.chan c).te.st = .idle := by
  by_cases h0 : s.sq.step = .s0
  · obtain ⟨t, e, -, hst, -⟩ := seqTick_atRest h h0
    rw [e]
    intro ht
    rw [hst] at ht
    cases ht
  · obtain ⟨u, hq, -, -, e⟩ := seqTick_coherent h.coherent
    rw [e]
    have home : ∀ t, u.Stepped ((u.chan .ch0).free && (u.chan .ch1).free) t →
        t.sq.step = .s0 → ∀ c, (t.chan c).te.st = .idle := by
      intro t ht hst c
      obtain ⟨hi, hc⟩ := ht.home (hq ▸ h0) hst
      simp only [Channel.free, Bool.and_eq_true, decide_eq_true_eq] at hi
      rw [State.chan_eq_of_chans hc]
      cases c with
      | ch0 => exact hi.1
      | ch1 => exact hi.2
    exact (seqBody_stepped _ _ u).bind home fun _ => home

theorem seqTick_seqRest {s : State} (h : s.SeqRest) : (seqTick s).Ends State.SeqRest := by
  have settled : (seqTick s).Ends fun t => ∀ c, (t.chan c).Settled :=
    seqTick_keeps (fun _ _ hs ht c => (hs c).scripted (ht.chans c)) h.settled
  exact (settled.and (seqTick_home h)).mono fun t ⟨hs, hr⟩ => ⟨fun c => (hs c).1, fun c => (hs c).2, hr⟩

/-- The condition depends on the transaction states, the modes and `sq.step` alone. -/
theorem State.SeqRest.congr {s t : State} (h : s.SeqRest)
    (hc : ∀ c, (t.chan c).te.st = (s.chan c).te.st ∧ (t.chan c).be.mode = (s.chan c).be.mode)
    (hq : t.sq.step = s.sq.step) : t.SeqRest := by
  have settled : ∀ c, (t.chan c).Settled := fun c => (h.settled c).congr (hc c).1 (hc c).2
  exact ⟨fun c => (settled c).1, fun c => (settled c).2, fun h0 c => (hc c).1.trans (h.rest (hq ▸ h0) c)⟩

theorem State.SeqRest.of_chans_eq {s t : State} (h : s.SeqRest) (hc : t.chans = s.chans)
    (hq : t.sq.step = s.sq.step) : t.SeqRest :=
  h.congr (fun c => by rw [State.chan_eq_of_chans hc]; exact ⟨rfl, rfl⟩) hq

theorem Channel.Queried.same {x y : Channel} (h : x.Queried y) : y.te.st = x.te.st ∧ y.be.mode = x.be.mode := by
  cases h with
  | kept => exact ⟨rfl, rfl⟩
  | retimed => exact ⟨rfl, rfl⟩

/-- SSETUP's begin changes lines only (R240). -/
theorem setupBegin_seqRest {s : State} (h : s.SeqRest) : (setupBegin s).Ends State.SeqRest := by
  refine (setupBegin_ends s).mono ?_
  rintro t (rfl | ⟨-, hc, hq⟩)
  · exact h
  · exact h.congr (fun c => by rw [hc c]; exact ⟨rfl, rfl⟩) (by rw [hq])

theorem seqRest_reset : State.reset.SeqRest :=
  ⟨fun c => by cases c <;> rfl, fun c _ => by cases c <;> rfl, fun _ c => by cases c <;> rfl⟩

theorem exec_seqRest {i : Instr} {s t : State} (hi : hostDrives i = false) (h : s.SeqRest)
    (e : exec i s = .next t) : t.SeqRest := by
  by_cases h1 : i = .stick
  · subst h1
    obtain ⟨u, hu, hc, hq⟩ := Ran.Ends.next (seqTick_seqRest h) e
    exact hu.of_chans_eq hc (by rw [hq])
  · by_cases h2 : i = .ssetup
    · subst h2
      obtain ⟨u, hu, hc, hq⟩ := exec_ssetup_next (setupBegin_seqRest h) e
      exact hu.of_chans_eq hc (by rw [hq])
    · have hq := exec_queried hi h1 h2 e
      exact h.congr (fun c => (hq.chans c).same) (by rw [hq.sq])

theorem setupAdvance_seqRest {s : State} (h : s.SeqRest) : (setupAdvance s).SeqRest := by
  obtain ⟨u, hu, hc, hq | hq | ⟨-, hq⟩⟩ := setupAdvance_cases (seqTick_seqRest h)
  all_goals exact hu.of_chans_eq hc (by rw [hq])

/-- Settles O59: at reset, kept by queries, STICK and SSETUP, and enough for step 0. -/
theorem scriptFindsChannelsIdle : Obligations.ScriptFindsChannelsIdle := by
  refine ⟨seqRest_reset, fun i s t => exec_seqRest, fun s t h ha e => ?_, fun s h h0 => ?_⟩
  · obtain ⟨-, rfl⟩ | ⟨hs, -⟩ | ⟨hs, -⟩ := step_cases e
    · exact setupAdvance_seqRest h
    · rw [ha] at hs; cases hs
    · rw [ha] at hs; cases hs
  · obtain ⟨t, e, hf, -, hc⟩ := seqTick_atRest h h0
    exact ⟨t.respond (.u3 (seqStepCode .s1)), by rw [exec, execStick, e, Ran.outcome_done], hf, hc⟩

end Sys2Proof.Machine

namespace Sys2Proof.Machine

/-! ## The channels are independent (10_state.md R49) -/

/-- The end of a piece of pseudocode with channel d replaced. -/
def Ran.withChan {α : Type} (r : Ran α) (d : Chan) (x : Channel) : Ran α :=
  match r with
  | .done a s => .done a (s.setChan d x)
  | .raised f s => .raised f (s.setChan d x)

/-- The pseudocode does and answers the same whatever channel d holds, and leaves it alone. -/
def IgnoresChan {α : Type} (d : Chan) (k : State → Ran α) : Prop :=
  ∀ s x, k (s.setChan d x) = (k s).withChan d x

section Ignores
variable {α β : Type} {c d : Chan} (hd : d ≠ c)

theorem IgnoresChan.bind {m : State → Ran α} {k : α → State → Ran β} (hm : IgnoresChan d m)
    (hk : ∀ a, IgnoresChan d (k a)) : IgnoresChan d fun s => (m s).bind (k · ·) := by
  intro s x
  dsimp only
  rw [hm s x]
  cases m s with
  | done a t => exact hk a t x
  | raised f t => rfl

theorem IgnoresChan.done {v : State → α} {f : State → State} (hv : ∀ s x, v (s.setChan d x) = v s)
    (hf : ∀ s x, f (s.setChan d x) = (f s).setChan d x) : IgnoresChan d fun s => .done (v s) (f s) := by
  intro s x
  dsimp only
  rw [hv, hf]
  rfl

/-- A command whose pseudocode ignores channel d. -/
theorem IgnoresChan.outcome {k : State → Ran α} (h : IgnoresChan d k) {g : α → Response} {s t : State}
    (e : (k s).outcome g = .next t) (x : Channel) : (k (s.setChan d x)).outcome g = .next (t.setChan d x) := by
  rw [h s x]
  cases hk : k s with
  | done a u => rw [hk] at e; cases e; rfl
  | raised f u => rw [hk] at e; cases e; rfl

include hd

/-- Writes to two channels commute. -/
theorem State.setChan_comm (s : State) (x y : Channel) :
    (s.setChan d x).setChan c y = (s.setChan c y).setChan d x := by
  simp only [State.setChan, PerChan.set_comm _ _ _ hd]

theorem State.chan_setChan_other (s : State) (x : Channel) : (s.setChan d x).chan c = s.chan c :=
  State.chan_setChan_ne s x hd.symm

theorem ignoresChan_guardOwner : IgnoresChan d (guardOwner c) := by
  intro s x
  rw [guardOwner_eq, guardOwner_eq, State.chan_setChan_other hd]
  split <;> rfl

theorem ignoresChan_guardReady : IgnoresChan d (guardReady c) := by
  intro s x
  rw [guardReady_eq, guardReady_eq, State.chan_setChan_other hd]
  split <;> rfl

theorem ignoresChan_putChan (f : Channel → Except Fault Channel) :
    IgnoresChan d fun s => s.putChan c (f (s.chan c)) := by
  intro s x
  dsimp only
  rw [State.chan_setChan_other hd]
  cases f (s.chan c) with
  | ok y => rw [State.putChan_ok, State.putChan_ok, State.setChan_comm hd]; rfl
  | error f => rfl

/-- Lines of channel c written behind both guards: BSTART, BSTOP and the recoveries (40_bit_engine.md R139). -/
theorem ignoresChan_guardedLines (f : LineDriver → α × LineDriver) : IgnoresChan d fun s =>
    (guardOwner c s).bind fun _ s => (guardReady c s).bind fun _ s =>
      .done (f (s.chan c).ld).1 (s.setLines c (f (s.chan c).ld).2) := by
  refine (ignoresChan_guardOwner hd).bind fun _ => (ignoresChan_guardReady hd).bind fun _ => .done ?_ ?_
  · intro s x
    rw [State.chan_setChan_other hd]
  · intro s x
    rw [State.setLines, State.chan_setChan_other hd, State.setChan_comm hd]
    rfl

/-- A byte operation of channel c and its response (40_bit_engine.md R142, R143). -/
theorem ignoresChan_byte (f : Channel → Except Fault Channel) (v : Channel → α) : IgnoresChan d fun s =>
    (guardOwner c s).bind fun _ s => (s.putChan c (f (s.chan c))).bind fun _ s => .done (v (s.chan c)) s :=
  (ignoresChan_guardOwner hd).bind fun _ => (ignoresChan_putChan hd f).bind fun _ =>
    .done (fun s x => by rw [State.chan_setChan_other hd]) fun _ _ => rfl

theorem ignoresChan_request (k : Option Kind) (reg : Byte) (v : BitVec 16) :
    IgnoresChan d (request c k reg v) := by
  intro s x
  unfold request
  rw [State.chan_setChan_other hd]
  split
  · rfl
  · rfl
  · rfl
  · rw [State.setChan_comm hd]; rfl

theorem ignoresChan_tick : IgnoresChan d (tick c) := by
  intro s x
  have hc := State.chan_setChan_other hd s x
  cases e : (s.chan c).tickBody c with
  | error f => rw [tick_error c s e, tick_error c _ (by rw [hc]; exact e)]; rfl
  | ok y =>
    rw [tick_ok c s e, tick_ok c _ (by rw [hc]; exact e)]
    simp only [Ran.withChan, State.ticked, State.setChan, State.tickTime] at hc ⊢
    rw [hc, PerChan.set_comm _ _ _ hd]

/-- A command of channel c with channel d replaced. -/
theorem exec_setChan {i : Instr} {s t : State} (hi : channelOf i = some c) (e : exec i s = .next t)
    (x : Channel) : exec i (s.setChan d x) = .next (t.setChan d x) := by
  have same : ∀ (u : State) (y : Channel), (u.setChan d y).chan c = u.chan c := State.chan_setChan_other hd
  cases i with
  | bstart c =>
    cases hi; exact (ignoresChan_guardedLines hd fun l => ((), l.startCond)).outcome e x
  | bstop c =>
    cases hi; exact (ignoresChan_guardedLines hd fun l => ((), l.stopCond)).outcome e x
  | brecover c | trecover c =>
    cases hi; exact (ignoresChan_guardedLines hd fun l => l.recover c).outcome e x
  | bwrite c v =>
    cases hi; exact (ignoresChan_byte hd (·.writeByte c v) (·.be.ackr)).outcome e x
  | bread c a =>
    cases hi; exact (ignoresChan_byte hd (·.readByte c a) (·.be.sh)).outcome e x
  | treqwr c w reg v => cases hi; exact (ignoresChan_request hd (writeKind w) reg v).outcome e x
  | treqrd c w reg => cases hi; exact (ignoresChan_request hd (readKind w) reg 0).outcome e x
  | ttick c => cases hi; exact (ignoresChan_tick hd).outcome e x
  | bready c => cases hi; cases e; simp only [exec, execBready, same]; rfl
  | tvalue c => cases hi; cases e; simp only [exec, execTvalue, State.lastValue, State.afterLastValue, same]; rfl
  | tack c => cases hi; cases e; simp only [exec, execTack, same]; rfl
  | terror c => cases hi; cases e; simp only [exec, execTerror, same]; rfl
  | ttimings c => cases hi; cases e; simp only [exec, execTtimings, same]; rfl
  | trsttim c =>
    cases hi; cases e; simp only [exec, execTrsttim, same, State.setChan_comm hd]; rfl
  | srdpres c | srdsec c => cases e; rfl
  | _ => cases hi

end Ignores

/-- Settles O56: the pseudocode of a channel's command ignores the other channel, and putting back what that
channel held shows that the command left it alone. -/
theorem channelsAreIndependent : Obligations.ChannelsAreIndependent := by
  intro i c d s t x hi hd e
  have swap := exec_setChan hd hi e
  refine ⟨?_, swap x⟩
  have same := swap (s.chan d)
  rw [State.setChan_chan, e] at same
  rw [Host.Outcome.next.inj same, State.chan_setChan]

end Sys2Proof.Machine

namespace Sys2Proof.Machine

/-! ## A step runs the next issued word (20_memory.md R73) -/

theorem runWord_decoded {w : Word} {i : Instr} (h : decode w = some i) (s : State) :
    runWord w s = exec i s := by
  rw [runWord, h]

/-- Outside SSETUP and without a fault, a step takes the first issued word out of the queue and runs it. -/
theorem step_fetched {s : State} {w : Word} {rest : List Word} (hf : s.fault = none) (hs : s.sq.sactive = false)
    (hc : s.cmds = w :: rest) : step s = runWord w { s with cmds := rest } := by
  simp [step, hf, hs, State.fetch_cons s w rest hc]

/-- Settles O5: the step fetches the word, and the word is run as the command it decodes to. -/
theorem stepRunsTheDecodedCommand : Obligations.StepRunsTheDecodedCommand := by
  intro s w rest i hf hs hc hd
  rw [step_fetched hf hs hc, runWord_decoded hd]

end Sys2Proof.Machine

namespace Sys2Proof.Machine

/-! ## The bus traces only grow: the lines of one channel (20_memory.md R74) -/

/-- The channel's trace is t with events appended. -/
def LineDriver.Extends (x : LineDriver) (t : List BusEvent) : Prop := t <+: x.trace

section Extends
variable {x : LineDriver} {t : List BusEvent}

theorem LineDriver.Extends.refl (x : LineDriver) : x.Extends x.trace := ⟨[], List.append_nil _⟩

theorem LineDriver.Extends.append {y : LineDriver} {ev : List BusEvent} (h : x.Extends t)
    (hy : y.trace = x.trace ++ ev) : y.Extends t :=
  h.trans ⟨ev, hy.symm⟩

theorem LineDriver.Extends.put (h : x.Extends t) (l : Line) (v : LineState) : (x.put l v).Extends t :=
  h.append (x.trace_put l v)

theorem LineDriver.Extends.settle (h : x.Extends t) : x.settle.Extends t := h.append x.trace_settle

theorem LineDriver.Extends.sample (h : x.Extends t) (c : Chan) (l : Line) : (x.sample c l).2.Extends t :=
  h.append (x.trace_sample c l)

theorem LineDriver.Extends.startCond (h : x.Extends t) : x.startCond.Extends t :=
  h.append (by rw [LineDriver.startCond_eq])

theorem LineDriver.Extends.stopCond (h : x.Extends t) : x.stopCond.Extends t :=
  h.append (by rw [LineDriver.stopCond_eq])

theorem LineDriver.Extends.letGo (h : x.Extends t) : x.letGo.Extends t :=
  h.append (by rw [LineDriver.letGo_eq])

theorem LineDriver.Extends.putBit_clock (h : x.Extends t) (b : Bool) : (x.putBit b).clock.Extends t :=
  h.append (by rw [LineDriver.putBit_clock_eq])

theorem LineDriver.Extends.clockIn (h : x.Extends t) (c : Chan) : (x.clockIn c).2.Extends t :=
  (((h.settle.put .scl .released).settle).sample c .sda).put .scl .drivenLow

theorem LineDriver.Extends.pulses (n : Nat) (h : x.Extends t) : (LineDriver.pulses n x).Extends t := by
  induction n generalizing x with
  | zero => exact h
  | succ n ih => exact ih (((h.put .scl .drivenLow).settle).put .scl .released).settle

theorem LineDriver.Extends.verifyFree (h : x.Extends t) (c : Chan) : (x.verifyFree c).2.Extends t := by
  have hscl := h.sample c .scl
  unfold LineDriver.verifyFree
  split <;> rename_i e <;> rw [e] at hscl
  · exact hscl
  · exact hscl.sample c .sda

/-- A recovery appends events wherever it ends: at SCL low, at both lines high, or after its pulses
(40_bit_engine.md R137). -/
theorem LineDriver.Extends.recover (h : x.Extends t) (c : Chan) : (x.recover c).2.Extends t := by
  have hscl := h.letGo.sample c .scl
  unfold LineDriver.recover
  split <;> rename_i e <;> rw [e] at hscl
  · exact hscl
  · have hsda := hscl.sample c .sda
    split <;> rename_i e <;> rw [e] at hsda
    · exact hsda
    · exact (hsda.pulses _).stopCond.verifyFree c

end Extends

section Channels
variable {x y : Channel} {c : Chan} {t : List BusEvent}

theorem Channel.writeByte_extends {v : Byte} (h : x.ld.Extends t) (e : x.writeByte c v = .ok y) :
    y.ld.Extends t := by
  obtain ⟨-, e'⟩ | ⟨-, -, e'⟩ | ⟨-, -, e'⟩ | ⟨-, e'⟩ := x.writeByte_cases c v <;> rw [e'] at e <;> cases e
  · exact h
  · exact h.putBit_clock _
  · exact (h.put .sda .released).clockIn c

theorem Channel.readByte_extends {a : Bool} (h : x.ld.Extends t) (e : x.readByte c a = .ok y) :
    y.ld.Extends t := by
  obtain ⟨-, e'⟩ | ⟨-, -, e'⟩ | ⟨-, -, e'⟩ | ⟨-, e'⟩ := x.readByte_cases c a <;> rw [e'] at e <;> cases e
  · exact h.put .sda .released
  · exact h.clockIn c
  · exact h.putBit_clock _

/-- A tick in a state that writes a byte. -/
theorem Channel.tickBody_extends_of_sends (h : x.ld.Extends t) (hs : (x.sends c).isSome = true)
    (e : x.tickBody c = .ok y) : y.ld.Extends t := by
  obtain ⟨⟨k, b, next, stop⟩, hs⟩ := Option.isSome_iff_exists.mp hs
  obtain ⟨-, e'⟩ | ⟨-, -, e'⟩ | ⟨-, -, e'⟩ | ⟨-, e'⟩ := x.tickBody_sends c hs <;> rw [e'] at e <;> cases e
  · exact h
  · exact h.putBit_clock _
  · exact (h.put .sda .released).clockIn c

theorem Channel.readStep_extends {d : RData} (h : x.ld.Extends t) (e : x.readStep c d = .ok y) :
    y.ld.Extends t := by
  obtain ⟨-, e'⟩ | ⟨-, -, e'⟩ | ⟨-, -, e'⟩ | ⟨-, e'⟩ := x.readStep_cases c d <;> rw [e'] at e <;> cases e
  · exact h.put .sda .released
  · exact h.clockIn c
  · exact h.putBit_clock _

/-- A tick's body appends events in every state of the transaction (41_transaction_engine.md R172). -/
theorem Channel.tickBody_extends (h : x.ld.Extends t) (e : x.tickBody c = .ok y) : y.ld.Extends t := by
  cases hs : x.te.st with
  | idle => rw [x.tickBody_idle c hs] at e; cases e; exact h
  | start k | restart k => simp only [Channel.tickBody, hs] at e; cases e; exact h.startCond
  | stop k => simp only [Channel.tickBody, hs] at e; cases e; exact h.stopCond
  | addr k | reg k | wdata d | addr2 k => exact tickBody_extends_of_sends h (by simp [Channel.sends, hs]) e
  | rdata d => exact readStep_extends h (x.tickBody_rdata c hs ▸ e)

end Channels

end Sys2Proof.Machine

namespace Sys2Proof.Machine

/-! ## The bus traces only grow, and the timer never goes back: the whole machine -/

/-- From s to t both traces only grew (20_memory.md R74), and the timer did not go back (00_scope.md R15). -/
structure State.Grown (s t : State) : Prop where
  trace : ∀ c, (t.chan c).ld.Extends (s.chan c).ld.trace
  count : s.timer.count ≤ t.timer.count

section Grown
variable {s t u : State} {c : Chan}

theorem State.Grown.refl (s : State) : s.Grown s := ⟨fun c => .refl (s.chan c).ld, Nat.le_refl _⟩

theorem State.Grown.trans (h : s.Grown t) (h' : t.Grown u) : s.Grown u :=
  ⟨fun c => (h.trace c).trans (h'.trace c), h.count.trans h'.count⟩

/-- The sequencer, the fault, the response, the queue and the draws do not matter. -/
theorem State.Grown.congr (h : s.Grown t) (hc : u.chans = t.chans) (ht : u.timer = t.timer) : s.Grown u :=
  ⟨fun c => State.chan_eq_of_chans hc c ▸ h.trace c, ht ▸ h.count⟩

theorem State.Grown.setChan {y : Channel} (h : y.ld.Extends (s.chan c).ld.trace) : s.Grown (s.setChan c y) := by
  refine ⟨fun d => ?_, Nat.le_refl _⟩
  by_cases hd : d = c
  · subst hd; rw [State.chan_setChan]; exact h
  · rw [State.chan_setChan_ne s y hd]; exact .refl _

theorem State.Grown.readTimer (s : State) : s.Grown s.readTimer :=
  ⟨(State.Grown.refl s).trace, s.timer.count_le_read⟩

/-- A tick whose body left channel c at y reads the timer twice. -/
theorem State.Grown.ticked {y : Channel} (h : y.ld.Extends (s.chan c).ld.trace) : s.Grown (s.ticked c y) :=
  have read := (State.Grown.readTimer s).trans (.readTimer s.readTimer)
  have set : s.Grown (s.setChan c { y with te := y.te.recordTime (s.chan c).te.st s.tickTime }) := .setChan h
  ⟨set.trace, read.count⟩

/-- Pseudocode that grows whatever state it runs from, after pseudocode that has grown. -/
theorem ends_bind_grown {α β : Type} {r : Ran α} {k : α → State → Ran β} (h : r.Ends s.Grown)
    (hk : ∀ a u, (k a u).Ends u.Grown) : (r.bind k).Ends s.Grown :=
  Ran.Ends.bind h (fun _ => id) fun a u hu => (hk a u).mono fun _ => hu.trans

theorem State.Grown.outcome {α : Type} {r : Ran α} {g : α → Response} (e : r.outcome g = .next t)
    (h : r.Ends s.Grown) : s.Grown t := by
  cases r with
  | done a u => cases e; exact h.congr rfl rfl
  | raised f u => cases e; exact h.congr rfl rfl

end Grown

theorem tick_grown (c : Chan) (s : State) : (tick c s).Ends s.Grown := by
  cases e : (s.chan c).tickBody c with
  | ok y => rw [tick_ok c s e]; exact .ticked (Channel.tickBody_extends (.refl _) e)
  | error f => rw [tick_error c s e]; exact .readTimer s

/-- A request writes no bus event (41_transaction_engine.md R165). -/
theorem request_grown (c : Chan) (k : Option Kind) (reg : Byte) (value : BitVec 16) (s : State) :
    (request c k reg value s).Ends s.Grown := by
  obtain ⟨-, e⟩ | ⟨-, -, e⟩ | ⟨-, -, -, e⟩ | ⟨-, -, j, -, e⟩ := request_cases c k reg value s <;> rw [e]
  · exact .refl s
  · exact .refl s
  · exact .refl s
  · exact .setChan (.refl _)

theorem bothWrite_grown (reg : Byte) (v : PerChan (BitVec 16)) (k : Kind) (s : State) :
    (bothWrite reg v k s).Ends s.Grown :=
  ends_bind_grown (request_grown ..) fun _ _ => ends_bind_grown (request_grown ..) fun _ => .refl

theorem bothRead_grown (reg : Byte) (k : Kind) (s : State) : (bothRead reg k s).Ends s.Grown :=
  bothWrite_grown reg { ch0 := 0, ch1 := 0 } k s

section Steps
variable {s u : State} {r : Ran Unit} {idle bad : Bool}

/-- Requests made in u and then a write of the sequencer. -/
theorem ends_requests_grown (hu : s.Grown u) (hr : r.Ends u.Grown) {f : State → State}
    (hf : ∀ t, (f t).chans = t.chans ∧ (f t).timer = t.timer) :
    (r.bind fun _ t => .done () (f t)).Ends s.Grown :=
  ends_bind_grown (hr.mono fun _ => hu.trans) fun _ t => (State.Grown.refl t).congr (hf t).1 (hf t).2

/-- Steps 1 to 5: wait for both channels, restart on an error, or go on (42_acquisition_sequencer.md R220). -/
theorem ends_waiting_grown (hu : s.Grown u) (hr : r.Ends s.Grown) :
    (if !idle then .done () s else if bad then .done () u else r).Ends s.Grown := by
  split
  · exact .refl s
  · split
    · exact hu
    · exact hr

end Steps

/-- The step of a STICK, whichever it is (R221 to R226): only steps 0 and 5 read the timer. -/
theorem seqBody_grown (idle bad : Bool) (s : State) : (seqBody idle bad s).Ends s.Grown := by
  have kept : ∀ {u : State}, u.chans = s.chans → u.timer = s.timer → s.Grown u := (State.Grown.refl s).congr
  have timed : ∀ {u : State}, u.chans = s.chans → u.timer = s.timer.read → s.Grown u :=
    (State.Grown.readTimer s).congr
  unfold seqBody
  split
  · rw [seqStep0_eq]
    exact ends_requests_grown (u := s.cycleBegun) (timed rfl rfl) (bothRead_grown ..) fun _ => ⟨rfl, rfl⟩
  · exact ends_waiting_grown (kept rfl rfl)
      (ends_requests_grown (u := s.lastValues.2) (kept rfl rfl) (bothWrite_grown ..) fun _ => ⟨rfl, rfl⟩)
  · exact ends_waiting_grown (kept rfl rfl)
      (ends_requests_grown (.refl s) (bothWrite_grown ..) fun _ => ⟨rfl, rfl⟩)
  · refine ends_waiting_grown (kept rfl rfl) ?_
    split
    · exact ends_requests_grown (.refl s) (bothRead_grown ..) fun _ => ⟨rfl, rfl⟩
    · dsimp only
      split
      · exact (bothRead_grown ..).mono fun _ => (kept (u := s.lastValues.2) rfl rfl).trans
      · exact kept rfl rfl
  · exact ends_waiting_grown (kept rfl rfl)
      (ends_requests_grown (.refl s) (bothRead_grown ..) fun _ => ⟨rfl, rfl⟩)
  · exact ends_waiting_grown (kept rfl rfl) (timed rfl rfl)

theorem seqTick_grown (s : State) : (seqTick s).Ends s.Grown :=
  ends_bind_grown (tick_grown .ch0 s) fun _ u => ends_bind_grown (tick_grown .ch1 u) fun _ v =>
    ends_bind_grown (seqBody_grown _ _ v) fun _ => .refl

/-- SSETUP's begin recovers both channels and reads no timer (R240). -/
theorem setupBegin_grown (s : State) : (setupBegin s).Ends s.Grown :=
  have kept := State.Grown.refl s
  ends_guardOwner kept fun _ => ends_guardOwner kept fun _ => ends_guardReady kept fun _ =>
    ends_guardReady kept fun _ =>
      ⟨fun c => match c with
        | .ch0 => (kept.trace .ch0).recover .ch0
        | .ch1 => (kept.trace .ch1).recover .ch1, kept.count⟩

theorem setupAdvance_grown (s : State) : s.Grown (setupAdvance s) := by
  have h := seqTick_grown s
  unfold setupAdvance
  cases e : seqTick s with
  | raised f u => rw [e] at h; exact h.congr rfl rfl
  | done n u =>
    rw [e] at h
    dsimp only
    split
    · exact h
    · split
      · exact h.congr rfl rfl
      · exact h.congr rfl rfl

theorem recoverCommand_grown (c : Chan) (s : State) : (recoverCommand c s).Ends s.Grown :=
  ends_guardOwner (.refl s) fun _ => ends_guardReady (.refl s) fun _ =>
    .setChan ((LineDriver.Extends.refl _).recover c)

theorem exec_ssetup_grown {s t : State} (h : exec .ssetup s = .next t) : s.Grown t := by
  have hb := setupBegin_grown s
  simp only [exec, execSsetup] at h
  cases e : setupBegin s with
  | done a u => rw [e] at h hb; cases h; exact hb.congr rfl rfl
  | raised f u => rw [e] at h hb; cases h; exact hb.congr rfl rfl

/-- Every command only appends to the traces, and does not turn the timer back. -/
theorem exec_grown {i : Instr} {s t : State} (h : exec i s = .next t) : s.Grown t := by
  have kept := State.Grown.refl s
  cases i with
  | bstart c =>
    exact .outcome h (ends_guardOwner kept fun _ => ends_guardReady kept fun _ =>
      .setChan (kept.trace c).startCond)
  | bstop c =>
    exact .outcome h (ends_guardOwner kept fun _ => ends_guardReady kept fun _ =>
      .setChan (kept.trace c).stopCond)
  | bwrite c v =>
    exact .outcome h (ends_guardOwner kept fun _ => ends_putChan kept fun _ e =>
      .setChan (Channel.writeByte_extends (kept.trace c) e))
  | bread c a =>
    exact .outcome h (ends_guardOwner kept fun _ => ends_putChan kept fun _ e =>
      .setChan (Channel.readByte_extends (kept.trace c) e))
  | brecover c | trecover c => exact .outcome h (recoverCommand_grown c s)
  | treqwr c w reg v => exact .outcome h (request_grown ..)
  | treqrd c w reg => exact .outcome h (request_grown ..)
  | ttick c => exact .outcome h (tick_grown c s)
  | stick => exact .outcome h (seqTick_grown s)
  | ssetup => exact exec_ssetup_grown h
  | trsttim c =>
    cases h
    refine (State.Grown.setChan (c := c) ?_).congr rfl rfl
    exact kept.trace c
  | bready c | tvalue c | tack c | terror c | ttimings c | srdpres c | srdsec c | ssetok | siserr | stimings
  | sstats | sdur => cases h; exact kept.congr rfl rfl

/-- An illegal word touches neither a channel nor the timer (60_exceptions.md R271). -/
theorem runWord_grown {w : Word} {s t : State} (h : runWord w s = .next t) : s.Grown t := by
  unfold runWord at h
  split at h
  · cases h; exact (State.Grown.refl s).congr rfl rfl
  · exact exec_grown h

/-- Settles O57: an internal STICK of SSETUP, a wait, and the run of a word each only append. -/
theorem tracesOnlyGrow : Obligations.TracesOnlyGrow := by
  intro s t e
  have grown : s.Grown t := by
    obtain ⟨-, rfl⟩ | ⟨-, rfl⟩ | ⟨-, w, rest, e⟩ := step_cases e
    · exact setupAdvance_grown s
    · exact .refl t
    · have fetched : s.Grown { s with cmds := rest } := (State.Grown.refl s).congr rfl rfl
      exact fetched.trans (runWord_grown e)
  refine ⟨fun c => ?_, grown.count⟩
  obtain ⟨ev, hev⟩ := grown.trace c
  exact ⟨ev, hev.symm⟩

end Sys2Proof.Machine

namespace Sys2Proof

/-! ## The fields of a command word (30_encoding.md R91) -/

section Fields
variable (op : BitVec 5) (ch : BitVec 1) (w : BitVec 2) (reg : Byte) (imm : BitVec 16)

@[simp] theorem immField_commandWord : immField (commandWord op ch w reg imm) = imm :=
  BitVec.extractLsb'_append_eq_right

@[simp] theorem regField_commandWord : regField (commandWord op ch w reg imm) = reg :=
  (BitVec.extractLsb'_append_eq_of_le (by decide)).trans BitVec.extractLsb'_append_eq_right

/-- The fields above REG and IMM. -/
theorem extractLsb'_commandWord {start len : Nat} (h : 24 ≤ start) :
    (commandWord op ch w reg imm).extractLsb' start len = (op ++ ch ++ w).extractLsb' (start - 24) len := by
  rw [show start - 24 = start - 16 - 8 by omega]
  exact (BitVec.extractLsb'_append_eq_of_le (by omega)).trans (BitVec.extractLsb'_append_eq_of_le (by omega))

@[simp] theorem widthField_commandWord : widthField (commandWord op ch w reg imm) = w :=
  (extractLsb'_commandWord op ch w reg imm (by decide)).trans BitVec.extractLsb'_append_eq_right

@[simp] theorem chField_commandWord : chField (commandWord op ch w reg imm) = ch :=
  (extractLsb'_commandWord op ch w reg imm (by decide)).trans
    ((BitVec.extractLsb'_append_eq_of_le (by decide)).trans BitVec.extractLsb'_append_eq_right)

@[simp] theorem opField_commandWord : opField (commandWord op ch w reg imm) = op :=
  (extractLsb'_commandWord op ch w reg imm (by decide)).trans
    ((BitVec.extractLsb'_append_eq_of_le (by decide)).trans BitVec.extractLsb'_append_eq_left)

end Fields

/-- A word is its five fields. -/
theorem commandWord_fields (w : Word) :
    commandWord (opField w) (chField w) (widthField w) (regField w) (immField w) = w := by
  simp only [commandWord, opField, chField, widthField, regField, immField,
    BitVec.extractLsb'_append_extractLsb'_eq_extractLsb']
  exact BitVec.extractLsb'_eq_self

/-! ## The decoder on the fields (30_encoding.md R96) -/

/-- No bit of x outside the mask m. -/
theorem and_not_eq_zero_iff {n : Nat} (x m : BitVec n) : x &&& ~~~m = 0 ↔ x &&& m = x := by
  have split : x = x &&& m ||| x &&& ~~~m := by rw [← BitVec.and_or_distrib_left]; simp
  constructor
  · intro h
    conv_rhs => rw [split, h]
    simp
  · intro h
    rw [← h, BitVec.and_assoc]
    simp

theorem eq_zero_iff_fields (w : Word) :
    w = 0 ↔ opField w = 0 ∧ chField w = 0 ∧ widthField w = 0 ∧ regField w = 0 ∧ immField w = 0 := by
  constructor
  · rintro rfl
    decide
  · rintro ⟨hop, hch, hw, hreg, himm⟩
    rw [← commandWord_fields w, hop, hch, hw, hreg, himm]
    rfl

/-- Each field but OP has no bit outside the row's free bits fb. -/
def FieldsWithin (fb : Word) (ch : BitVec 1) (w : BitVec 2) (reg : Byte) (imm : BitVec 16) : Prop :=
  ch &&& chField fb = ch ∧ w &&& widthField fb = w ∧ reg &&& regField fb = reg ∧ imm &&& immField fb = imm

/-- A field below OP of the bits R96 looks at. -/
theorem extractLsb'_fixedBits (fb w : Word) {start len : Nat} (h : start + len ≤ 27) :
    (w &&& ~~~fb &&& 0x07FFFFFF).extractLsb' start len =
      w.extractLsb' start len &&& ~~~fb.extractLsb' start len := by
  have low : ∀ k < 27, (0x07FFFFFF : Word).getLsbD k = true := by decide
  have mask : (0x07FFFFFF : Word).extractLsb' start len = BitVec.allOnes len := by
    ext k hk
    rw [BitVec.getElem_extractLsb', low (start + k) (by omega), BitVec.getElem_allOnes]
  rw [BitVec.extractLsb'_and, BitVec.extractLsb'_and, BitVec.extractLsb'_not_of_lt (by omega), mask,
    BitVec.and_allOnes]

/-- R96's test, field by field. -/
theorem fixedBits_eq_zero_iff (fb w : Word) : w &&& ~~~fb &&& 0x07FFFFFF = 0 ↔
    FieldsWithin fb (chField w) (widthField w) (regField w) (immField w) := by
  have hop : opField (w &&& ~~~fb &&& 0x07FFFFFF) = 0 := by
    rw [opField, BitVec.extractLsb'_and]
    exact BitVec.and_zero
  have hch : chField (w &&& ~~~fb &&& 0x07FFFFFF) = _ := extractLsb'_fixedBits fb w (by decide)
  have hw : widthField (w &&& ~~~fb &&& 0x07FFFFFF) = _ := extractLsb'_fixedBits fb w (by decide)
  have hreg : regField (w &&& ~~~fb &&& 0x07FFFFFF) = _ := extractLsb'_fixedBits fb w (by decide)
  have himm : immField (w &&& ~~~fb &&& 0x07FFFFFF) = _ := extractLsb'_fixedBits fb w (by decide)
  rw [eq_zero_iff_fields, hop, hch, hw, hreg, himm]
  simp only [and_not_eq_zero_iff, true_and]
  rfl

/-- What it takes for a word to decode to a command: a row with its OP, no bit outside the row's free bits, and
the row's command on its fields. -/
theorem decode_eq_some_iff {w : Word} {i : Instr} : decode w = some i ↔
    ∃ fb, freeBits (opField w) = some fb ∧
      FieldsWithin fb (chField w) (widthField w) (regField w) (immField w) ∧
      commandOf (opField w) (chField w) (widthField w) (regField w) (immField w) = some i := by
  unfold decode
  cases freeBits (opField w) with
  | none => simp
  | some fb =>
    rw [Option.ite_none_right_eq_some, fixedBits_eq_zero_iff]
    simp

/-! ## A field under its mask -/

@[simp] theorem ch_and_mask (b : BitVec 1) : b &&& 1#1 = b := BitVec.and_allOnes

@[simp] theorem width_and_mask (w : BitVec 2) : w &&& 3#2 = w := BitVec.and_allOnes

@[simp] theorem reg_and_mask (reg : Byte) : reg &&& 255#8 = reg := BitVec.and_allOnes

@[simp] theorem imm_and_mask (imm : BitVec 16) : imm &&& 65535#16 = imm := BitVec.and_allOnes

/-- The low n bits. -/
theorem and_lowMask {m n : Nat} (x : BitVec (m + n)) :
    x &&& (0#m ++ BitVec.allOnes n) = 0#m ++ x.extractLsb' 0 n := by
  conv_lhs => rw [← BitVec.extractLsb'_append_extractLsb' (x := x)]
  rw [BitVec.and_append, BitVec.and_zero, BitVec.and_allOnes]

/-- IMM[7:0]. -/
theorem imm_and_mask8 (imm : BitVec 16) : imm &&& 255#16 = (0 : BitVec 8) ++ imm.extractLsb' 0 8 :=
  and_lowMask (m := 8) (n := 8) imm

/-- IMM[0]. -/
theorem imm_and_mask1 (imm : BitVec 16) :
    imm &&& 1#16 = (0 : BitVec 15) ++ BitVec.ofBool (imm.getLsbD 0) := by
  have bit : imm.extractLsb' 0 1 = BitVec.ofBool (imm.getLsbD 0) := by
    ext k hk
    simp [show k = 0 by omega]
  exact (and_lowMask (m := 15) (n := 1) imm).trans (congrArg (0#15 ++ ·) bit)

theorem imm_append8 (v : Byte) : BitVec.extractLsb' 0 8 ((0 : BitVec 8) ++ v) = v :=
  BitVec.extractLsb'_append_eq_right

theorem imm_append1 (a : Bool) : BitVec.getLsbD ((0 : BitVec 15) ++ BitVec.ofBool a) 0 = a := by
  cases a <;> rfl

/-! ## From a command to its word and back -/

@[simp] theorem Chan.ofBit_bit (c : Chan) : Chan.ofBit c.bit = c := by cases c <;> rfl

@[simp] theorem Chan.bit_ofBit (b : BitVec 1) : (Chan.ofBit b).bit = b := by revert b; decide

section Rows
variable {op : BitVec 5} {ch : BitVec 1} {w : BitVec 2} {reg : Byte} {imm : BitVec 16} {i : Instr} {fb : Word}

/-- A word made of fields within its row's free bits decodes to the row's command on these fields. -/
theorem decode_commandWord (hf : freeBits op = some fb) (hw : FieldsWithin fb ch w reg imm)
    (hi : commandOf op ch w reg imm = some i) : decode (commandWord op ch w reg imm) = some i :=
  decode_eq_some_iff.2 ⟨fb, by simpa using hf, by simpa using hw, by simpa using hi⟩

/-- A row whose only field is CH. -/
theorem decode_channelWord {c : Chan} (hf : freeBits op = some chBits)
    (hi : commandOf op c.bit 0 0 0 = some i) : decode (channelWord op c) = some i :=
  decode_commandWord hf (by simp [FieldsWithin, chField, chBits]) hi

/-- A row without fields. -/
theorem decode_bareWord (hf : freeBits op = some 0) (hi : commandOf op 0 0 0 0 = some i) :
    decode (bareWord op) = some i :=
  decode_commandWord hf (by simp [FieldsWithin]) hi

theorem op_eq_of_toNat_eq {n : Nat} (h : op.toNat = n) : op = BitVec.ofNat 5 n := by
  rw [← h, BitVec.ofNat_toNat, BitVec.setWidth_eq]

/-- Encoding the command of a row keeps the row's free bits of each field, and clears the others (R92, R94). -/
theorem encode_commandOf (hf : freeBits op = some fb) (hi : commandOf op ch w reg imm = some i) :
    encode i = commandWord op (ch &&& chField fb) (w &&& widthField fb) (reg &&& regField fb)
      (imm &&& immField fb) := by
  unfold commandOf at hi
  split at hi <;> cases hi
  all_goals
    obtain rfl := op_eq_of_toNat_eq ‹op.toNat = _›
    cases hf
    simp [encode, channelWord, bareWord, chField, widthField, regField, immField, chBits, widthBits, regBits,
      immBits, imm8Bits, imm1Bits, imm_and_mask8, imm_and_mask1]

end Rows

/-- Settles O2, row by row: each operand stands in a field its row has, and comes back from it. -/
theorem decodeOfEncode : Obligations.DecodeOfEncode := by
  intro i
  cases i with
  | ssetok | stick | siserr | stimings | sstats | sdur | ssetup => exact decode_bareWord rfl rfl
  | bwrite c v =>
    have himm : ((0 : BitVec 8) ++ v : BitVec 16) &&& 255#16 = (0 : BitVec 8) ++ v :=
      (imm_and_mask8 _).trans (congrArg ((0 : BitVec 8) ++ ·) (imm_append8 v))
    exact decode_commandWord (fb := chBits ||| imm8Bits) rfl ⟨ch_and_mask _, rfl, rfl, himm⟩
      (congrArg some (congrArg₂ Instr.bwrite c.ofBit_bit (imm_append8 v)))
  | bread c a =>
    have himm : ((0 : BitVec 15) ++ BitVec.ofBool a : BitVec 16) &&& 1#16 =
        (0 : BitVec 15) ++ BitVec.ofBool a :=
      (imm_and_mask1 _).trans (congrArg ((0 : BitVec 15) ++ BitVec.ofBool ·) (imm_append1 a))
    exact decode_commandWord (fb := chBits ||| imm1Bits) rfl ⟨ch_and_mask _, rfl, rfl, himm⟩
      (congrArg some (congrArg₂ Instr.bread c.ofBit_bit (imm_append1 a)))
  | treqwr c w reg value =>
    exact decode_commandWord (fb := chBits ||| widthBits ||| regBits ||| immBits) rfl
      ⟨ch_and_mask _, width_and_mask _, reg_and_mask _, imm_and_mask _⟩ (by simp [commandOf])
  | treqrd c w reg =>
    exact decode_commandWord (fb := chBits ||| widthBits ||| regBits) rfl
      ⟨ch_and_mask _, width_and_mask _, reg_and_mask _, rfl⟩ (by simp [commandOf])
  | _ c => exact decode_channelWord rfl (by simp [commandOf])

/-- Settles O3: the fields of a word that decodes are within its row's free bits, so encoding keeps them all. -/
theorem encodeOfDecode : Obligations.EncodeOfDecode := by
  intro w i h
  obtain ⟨fb, hf, ⟨hch, hw, hreg, himm⟩, hi⟩ := decode_eq_some_iff.1 h
  rw [encode_commandOf hf hi, hch, hw, hreg, himm, commandWord_fields]

namespace Machine

/-- A width other than 8 and 16 asks for no write: BusBusy or InvalidWidth, and nothing changes
(41_transaction_engine.md R165, R166). -/
theorem exec_treqwr_invalidWidth (c : Chan) {w : BitVec 2} (hw : writeKind w = none) (reg : Byte)
    (value : BitVec 16) (s : State) :
    exec (.treqwr c w reg value) s = .next { s with resp := some (.bool false) } := by
  simp only [exec, execTreqwr, hw]
  obtain ⟨-, e⟩ | ⟨-, -, e⟩ | ⟨-, -, ⟨j, hj⟩, -⟩ | ⟨-, -, j, hj, -⟩ := request_cases c none reg value s
  · rw [e]; rfl
  · rw [e]; rfl
  · cases hj
  · cases hj

end Machine

/-- Settles O1: each example evaluated, the rejected width by the checks of a request. -/
theorem exampleWordsOfTheSpec : Obligations.ExampleWordsOfTheSpec := by
  have rejected := Machine.exec_treqwr_invalidWidth .ch0 (w := 2) rfl 0x30 0x000A
  refine ⟨?_, ?_, ?_, ?_, rejected, ?_⟩ <;> decide

end Sys2Proof

namespace Sys2Proof.Machine

/-! ## SSETUP does not look at the issued words (30_encoding.md R97, 42_acquisition_sequencer.md R241) -/

/-- The state with other words issued (log 1). -/
def State.withCmds (s : State) (q : List Word) : State := { s with cmds := q }

/-- The end of a piece of pseudocode with other words issued. -/
def Ran.withCmds {α : Type} (r : Ran α) (q : List Word) : Ran α :=
  match r with
  | .done a s => .done a (s.withCmds q)
  | .raised f s => .raised f (s.withCmds q)

/-- The pseudocode does and answers the same whatever words are issued, and leaves them alone. -/
def IgnoresCmds {α : Type} (k : State → Ran α) : Prop := ∀ s q, k (s.withCmds q) = (k s).withCmds q

/-- A write of the state that neither reads nor changes the issued words. -/
def KeepsCmds (f : State → State) : Prop := ∀ s q, f (s.withCmds q) = (f s).withCmds q

section Ignores
variable {α β : Type}

theorem IgnoresCmds.bind {m : State → Ran α} {k : α → State → Ran β} (hm : IgnoresCmds m)
    (hk : ∀ a, IgnoresCmds (k a)) : IgnoresCmds fun s => (m s).bind (k · ·) := by
  intro s q
  dsimp only
  rw [hm s q]
  cases m s with
  | done a t => exact hk a t q
  | raised f t => rfl

/-- Pseudocode run after the write f, and followed by the write g. -/
theorem IgnoresCmds.between {m : State → Ran Unit} (hm : IgnoresCmds m) (f g : State → State)
    (hf : KeepsCmds f) (hg : KeepsCmds g) : IgnoresCmds fun s => (m (f s)).bind fun _ s => .done () (g s) := by
  intro s q
  dsimp only
  rw [hf, hm (f s) q]
  cases m (f s) with
  | done a t => exact congrArg (Ran.done ()) (hg t q)
  | raised e t => rfl

theorem ignoresCmds_tick (c : Chan) : IgnoresCmds (tick c) := by
  intro s q
  cases e : (s.chan c).tickBody c with
  | ok y => rw [tick_ok c s e, tick_ok c (s.withCmds q) e]; rfl
  | error f => rw [tick_error c s e, tick_error c (s.withCmds q) e]; rfl

theorem ignoresCmds_request (c : Chan) (k : Option Kind) (reg : Byte) (v : BitVec 16) :
    IgnoresCmds (request c k reg v) := by
  intro s q
  have same : (s.withCmds q).chan c = s.chan c := rfl
  unfold request
  rw [same]
  split <;> rfl

theorem ignoresCmds_bothWrite (reg : Byte) (v : PerChan (BitVec 16)) (k : Kind) :
    IgnoresCmds (bothWrite reg v k) :=
  (ignoresCmds_request _ _ _ _).bind fun _ => (ignoresCmds_request _ _ _ _).bind fun _ _ _ => rfl

theorem ignoresCmds_bothRead (reg : Byte) (k : Kind) : IgnoresCmds (bothRead reg k) :=
  ignoresCmds_bothWrite reg { ch0 := 0, ch1 := 0 } k

/-- Steps 1 to 5: wait for both channels, restart on an error, or go on (42_acquisition_sequencer.md R220). -/
theorem ignoresCmds_waiting (f : State → State) {k : State → Ran Unit} {idle bad : Bool} (hf : KeepsCmds f)
    (hk : IgnoresCmds k) :
    IgnoresCmds fun s => if !idle then .done () s else if bad then .done () (f s) else k s := by
  intro s q
  dsimp only
  split
  · rfl
  · split
    · exact congrArg (Ran.done ()) (hf s q)
    · exact hk s q

end Ignores

section Steps
variable {idle bad : Bool}

theorem ignoresCmds_seqStep0 : IgnoresCmds seqStep0 :=
  (ignoresCmds_bothRead _ _).between State.cycleBegun (·.setStep .s1) (fun _ _ => rfl) fun _ _ => rfl

theorem ignoresCmds_seqStep1 : IgnoresCmds (seqStep1 idle bad) := by
  refine ignoresCmds_waiting State.restart (fun _ _ => rfl) fun s q => ?_
  exact (ignoresCmds_bothWrite _ _ _).between (fun s => s.lastValues.2) (·.setStep .s2) (fun _ _ => rfl)
    (fun _ _ => rfl) s q

theorem ignoresCmds_seqStep2 : IgnoresCmds (seqStep2 idle bad) :=
  ignoresCmds_waiting State.restart (fun _ _ => rfl)
    ((ignoresCmds_bothWrite _ _ _).between id (·.setStep .s3) (fun _ _ => rfl) fun _ _ => rfl)

theorem ignoresCmds_seqStep3 : IgnoresCmds (seqStep3 idle bad) := by
  refine ignoresCmds_waiting (fun s => (s.setPoll false).restart) (fun _ _ => rfl) fun s q => ?_
  have same : (s.withCmds q).sq.poll = s.sq.poll := rfl
  have values : (s.withCmds q).lastValues = (s.lastValues.1, s.lastValues.2.withCmds q) := rfl
  rw [same, values]
  split
  · exact (ignoresCmds_bothRead _ _).between id (·.setPoll true) (fun _ _ => rfl) (fun _ _ => rfl) s q
  · dsimp only
    split
    · exact ignoresCmds_bothRead _ _ s.lastValues.2 q
    · rfl

theorem ignoresCmds_seqStep4 : IgnoresCmds (seqStep4 idle bad) :=
  ignoresCmds_waiting State.restart (fun _ _ => rfl)
    ((ignoresCmds_bothRead _ _).between id (·.setStep .s5) (fun _ _ => rfl) fun _ _ => rfl)

theorem ignoresCmds_seqStep5 : IgnoresCmds (seqStep5 idle bad) :=
  ignoresCmds_waiting State.restart (fun _ _ => rfl) fun _ _ => rfl

end Steps

/-- The step of a STICK, whichever it is (R221 to R226). -/
theorem ignoresCmds_seqBody (idle bad : Bool) : IgnoresCmds (seqBody idle bad) := by
  intro s q
  have same : (s.withCmds q).sq.step = s.sq.step := rfl
  unfold seqBody
  rw [same]
  split
  · exact ignoresCmds_seqStep0 s q
  · exact ignoresCmds_seqStep1 s q
  · exact ignoresCmds_seqStep2 s q
  · exact ignoresCmds_seqStep3 s q
  · exact ignoresCmds_seqStep4 s q
  · exact ignoresCmds_seqStep5 s q

theorem ignoresCmds_seqTick : IgnoresCmds seqTick := by
  refine (ignoresCmds_tick .ch0).bind fun b0 => (ignoresCmds_tick .ch1).bind fun b1 => ?_
  intro s q
  have body : IgnoresCmds fun u => (seqBody (!b0 && !b1) s.bad u).bind fun _ t => .done t.sq.step t :=
    (ignoresCmds_seqBody _ _).bind fun _ _ _ => rfl
  exact body s q

theorem keepsCmds_setupAdvance : KeepsCmds setupAdvance := by
  intro s q
  unfold setupAdvance
  rw [ignoresCmds_seqTick s q]
  cases seqTick s with
  | raised f u => rfl
  | done n u =>
    have same : (u.withCmds q).setupDone = u.setupDone := rfl
    dsimp only [Ran.withCmds]
    rw [same]
    split
    · rfl
    · split <;> rfl

theorem KeepsCmds.cmds {f : State → State} (h : KeepsCmds f) (s : State) : (f s).cmds = s.cmds :=
  have back : f s = (f s).withCmds s.cmds := h s s.cmds
  (congrArg State.cmds back).trans rfl

/-- Inside SSETUP a step is an internal STICK (log 9). -/
theorem step_setup {s : State} (hf : s.fault = none) (ha : s.sq.sactive = true) :
    step s = .next (setupAdvance s) := by
  simp [step, hf, ha]

/-- Settles O8: a step inside SSETUP is an internal STICK, which neither reads nor writes the issued words. -/
theorem hostIsHeldDuringSetup : Obligations.HostIsHeldDuringSetup := by
  intro s q hf ha
  refine ⟨setupAdvance s, step_setup hf ha, keepsCmds_setupAdvance.cmds s, ?_⟩
  have held : step (s.withCmds q) = .next (setupAdvance (s.withCmds q)) := step_setup hf ha
  rw [keepsCmds_setupAdvance s q] at held
  exact held

end Sys2Proof.Machine

namespace Sys2Proof.Machine

/-! ## What a transaction has written so far -/

/-- n ticks take the channel from x to y inside a transaction: the events ev on the wire, each written byte's ACK
bit sampled at the level listed in acks, and no byte read (41_transaction_engine.md R160, R168). -/
structure Channel.Sent (c : Chan) (n : Nat) (ev : List BusEvent) (acks : List Bool) (x y : Channel) : Prop where
  runs : Channel.Runs c n x y
  trace : y.ld.trace = x.ld.trace ++ ev
  answers : x.ld.answers = acks ++ y.ld.answers
  mode : y.be.mode = .idle
  reg : y.te.reg = x.te.reg
  wval : y.te.wval = x.te.wval
  val : y.te.val = x.te.val
  vvalid : y.te.vvalid = x.te.vvalid
  /-- `ack` is the last byte's. -/
  ack : y.te.ack = acks.foldl (fun _ level => !level) x.te.ack
  /-- A NACK sets `err`, and nothing clears it. -/
  err : y.te.err = (x.te.err || acks.any id)

section Sent
variable {c : Chan} {n : Nat} {ev : List BusEvent} {acks rest : List Bool} {x y : Channel}

theorem Channel.Sent.rest_eq (h : Channel.Sent c n ev acks x y) (ha : x.ld.answers = acks ++ rest) :
    y.ld.answers = rest :=
  List.append_cancel_left (h.answers.symm.trans ha)

theorem Channel.Sent.start {k : Kind} (hs : x.te.st = .start k) (hm : x.be.mode = .idle) :
    ∃ y, Channel.Sent c 1 startEvents [] x y ∧ y.te.st = .addr k := by
  obtain ⟨y, run, trace, answers, be, te⟩ := Channel.Runs.start (c := c) hs
  refine ⟨y, ⟨run, trace, answers.symm, ?_, ?_, ?_, ?_, ?_, ?_, ?_⟩, ?_⟩ <;> simp [be, te, hm]

/-- The repeated start of a read. -/
theorem Channel.Sent.restart {k : RKind} (h : Channel.Sent c n ev acks x y) (hs : y.te.st = .restart k) :
    ∃ z, Channel.Sent c (n + 1) (ev ++ startEvents) acks x z ∧ z.te.st = .addr2 k := by
  obtain ⟨z, run, trace, answers, be, te⟩ := Channel.Runs.restart (c := c) hs
  refine ⟨z, ⟨h.runs.append run, ?_, ?_, ?_, ?_, ?_, ?_, ?_, ?_, ?_⟩, ?_⟩
  · rw [trace, h.trace, List.append_assoc]
  · rw [answers, h.answers]
  · rw [be, h.mode]
  · rw [te, ← h.reg]
  · rw [te, ← h.wval]
  · rw [te, ← h.val]
  · rw [te, ← h.vvalid]
  · rw [te, ← h.ack]
  · rw [te, ← h.err]
  · rw [te]

/-- One more byte written, its ACK bit at the given level; an acknowledged read address byte clears `acc`. -/
theorem Channel.Sent.byte {k : Kind} {v : Byte} {next : TState} {stop level : Bool}
    (h : Channel.Sent c n ev acks x y) (hs : y.sends c = some (k, v, next, stop))
    (ha : x.ld.answers = acks ++ level :: rest) :
    ∃ z, Channel.Sent c (n + 10) (ev ++ writtenByte v level) (acks ++ [level]) x z ∧
      z.te.st = (if level && stop then .stop k else next) ∧
      (∀ r, y.te.st = .addr2 r → level = false → z.te.acc = 0) := by
  obtain ⟨z, run, trace, answers, mode, st, reg, wval, ack, err, vvalid, val, acc⟩ :=
    Channel.Runs.send hs h.mode level rest (h.rest_eq ha)
  refine ⟨z, ⟨h.runs.append run, ?_, ?_, mode, ?_, ?_, ?_, ?_, ?_, ?_⟩, st, fun r hr hl => ?_⟩
  · rw [trace, h.trace, List.append_assoc]
  · rw [answers, ha, List.append_assoc]; rfl
  · rw [reg, h.reg]
  · rw [wval, h.wval]
  · rw [val, h.val]
  · rw [vvalid, h.vvalid]
  · rw [ack, List.foldl_append]; rfl
  · simp [err, h.err, Bool.or_assoc]
  · rw [acc, hr, hl]; rfl

end Sent

/-! ## What each state of a transaction writes (41_transaction_engine.md R171) -/

section Sends
variable {c : Chan} {x : Channel}

theorem Channel.sends_addr {k : Kind} (hs : x.te.st = .addr k) :
    x.sends c = some (k, addrWrite c, .reg k, true) := by simp only [Channel.sends, hs]

theorem Channel.sends_reg {k : Kind} (hs : x.te.st = .reg k) :
    x.sends c = some (k, x.te.reg, afterReg k, true) := by simp only [Channel.sends, hs]

theorem Channel.sends_wdata {d : WData} (hs : x.te.st = .wdata d) : x.sends c =
    some (.write (wdataKind d), writeByteOf x.te.wval d, afterWdata d, stopOnNack d) := by
  simp only [Channel.sends, hs]

theorem Channel.sends_addr2 {k : RKind} (hs : x.te.st = .addr2 k) :
    x.sends c = some (.read k, addrRead c, .rdata (rdataFirst k), true) := by simp only [Channel.sends, hs]

end Sends

/-! ## The written part of each transaction -/

/-- The start, the acknowledged write address, and the register, its ACK bit at the given level: how every
transaction begins (30_encoding.md R103). -/
def registerEvents (c : Chan) (reg : Byte) (level : Bool) : List BusEvent :=
  startEvents ++ writtenByte (addrWrite c) false ++ writtenByte reg level

section Paths
variable {c : Chan} {x : Channel} {level : Bool} {rest : List Bool}

theorem Channel.sent_address {k : Kind} (hs : x.te.st = .start k) (hm : x.be.mode = .idle)
    (ha : x.ld.answers = level :: rest) :
    ∃ y, Channel.Sent c 11 (startEvents ++ writtenByte (addrWrite c) level) [level] x y ∧
      y.te.st = if level then .stop k else .reg k := by
  obtain ⟨y, hy, st⟩ := Channel.Sent.start (c := c) hs hm
  obtain ⟨z, hz, st', -⟩ := hy.byte (Channel.sends_addr st) ha
  exact ⟨z, hz, by simpa using st'⟩

theorem Channel.sent_register {k : Kind} (hs : x.te.st = .start k) (hm : x.be.mode = .idle)
    (ha : x.ld.answers = false :: level :: rest) :
    ∃ y, Channel.Sent c 21 (registerEvents c x.te.reg level) [false, level] x y ∧
      y.te.st = if level then .stop k else afterReg k := by
  obtain ⟨y, hy, st⟩ := Channel.sent_address (c := c) hs hm ha
  obtain ⟨z, hz, st', -⟩ := hy.byte (Channel.sends_reg st) ha
  rw [hy.reg] at hz
  exact ⟨z, hz, by simpa using st'⟩

/-- A write's first data byte; a NACK on it goes straight to the stop where `stopOnNack` says. -/
theorem Channel.sent_firstData {k : WKind} (hs : x.te.st = .start (.write k)) (hm : x.be.mode = .idle)
    (ha : x.ld.answers = false :: false :: level :: rest) :
    ∃ y, Channel.Sent c 31
        (registerEvents c x.te.reg false ++ writtenByte (writeByteOf x.te.wval (wdataFirst k)) level)
        [false, false, level] x y ∧
      y.te.st = if level && stopOnNack (wdataFirst k) then .stop (.write k) else afterWdata (wdataFirst k) := by
  obtain ⟨y, hy, st⟩ := Channel.sent_register (c := c) hs hm ha
  obtain ⟨z, hz, st', -⟩ := hy.byte (Channel.sends_wdata st) ha
  rw [hy.wval] at hz
  exact ⟨z, hz, by cases k <;> exact st'⟩

/-- Both data bytes of a Write16, where the first did not stop it. -/
theorem Channel.sent_secondData {first : Bool} (hs : x.te.st = .start (.write .write16))
    (hm : x.be.mode = .idle) (ha : x.ld.answers = false :: false :: first :: level :: rest)
    (hf : (first && stopOnNack .w16d0) = false) :
    ∃ y, Channel.Sent c 41 (registerEvents c x.te.reg false ++
        writtenByte (x.te.wval.extractLsb' 8 8) first ++ writtenByte (x.te.wval.extractLsb' 0 8) level)
        [false, false, first, level] x y ∧
      y.te.st = .stop (.write .write16) := by
  obtain ⟨y, hy, st⟩ := Channel.sent_firstData (c := c) hs hm ha
  have st : y.te.st = .wdata .w16d1 := by simpa [wdataFirst, hf, afterWdata] using st
  obtain ⟨z, hz, st', -⟩ := hy.byte (Channel.sends_wdata st) ha
  rw [hy.wval] at hz
  exact ⟨z, hz, by simpa [wdataKind, afterWdata] using st'⟩

/-- The read address after the repeated start; acknowledged, it clears `acc` (R170). -/
theorem Channel.sent_readAddress {k : RKind} (hs : x.te.st = .start (.read k)) (hm : x.be.mode = .idle)
    (ha : x.ld.answers = false :: false :: level :: rest) :
    ∃ y, Channel.Sent c 32
        (registerEvents c x.te.reg false ++ startEvents ++ writtenByte (addrRead c) level)
        [false, false, level] x y ∧
      y.te.st = (if level then .stop (.read k) else .rdata (rdataFirst k)) ∧ (level = false → y.te.acc = 0) := by
  obtain ⟨u, hu, st⟩ := Channel.sent_register (c := c) hs hm ha
  obtain ⟨y, hy, st'⟩ := hu.restart st
  obtain ⟨z, hz, st'', acc⟩ := hy.byte (Channel.sends_addr2 st') ha
  exact ⟨z, hz, by simpa using st'', acc k st'⟩

end Paths

/-! ## The stop, and what the machine shows then -/

/-- A run up to the stop condition, on the machine: one tick more and the transaction is done. -/
theorem Channel.Runs.finish {c : Chan} {n : Nat} {s : State} {y : Channel} {k : Kind}
    (h : Channel.Runs c n (s.chan c) y) (hs : y.te.st = .stop k) :
    ∃ t, DoneAfter c (n + 1) s t ∧ (t.chan c).ld.trace = y.ld.trace ++ stopEvents ∧
      (t.chan c).ld.answers = y.ld.answers ∧ (t.chan c).ld.sda = .released ∧ (t.chan c).ld.scl = .released ∧
      (t.chan c).te.st = .idle ∧ SameRegisters (t.chan c).te y.te ∧
      (∀ d, d ≠ c → t.chan d = s.chan d) ∧ t.sq = s.sq ∧ t.fault = s.fault := by
  obtain ⟨z, run, trace, answers, sda, scl, -, te⟩ := Channel.Runs.stop (c := c) hs
  obtain ⟨t, m, i, v, done, chan, other, sq, fault⟩ :=
    (h.append run).done (Nat.succ_pos n) (by rw [te])
  have same : SameRegisters (z.withTime m i v).te y.te := by
    simp only [Channel.withTime, te]
    exact ⟨rfl, rfl, rfl, rfl, rfl, rfl, rfl⟩
  refine ⟨t, done, ?_⟩
  rw [chan]
  exact ⟨trace, answers, sda, scl, congrArg TransEngine.st te, same, other, sq, fault⟩

/-- The bytes x writes in its next n ticks, with events ev, lead to the stop; their ACK bits are at the levels in
`before` and, for the last of them, at `level`. -/
def Channel.SentToStop (c : Chan) (n : Nat) (ev : List BusEvent) (before : List Bool) (level : Bool)
    (x : Channel) : Prop :=
  ∃ y k, Channel.Sent c n ev (before ++ [level]) x y ∧ y.te.st = .stop k

/-- A transaction that stops after its written bytes, on the machine. -/
theorem Channel.SentToStop.finish {c : Chan} {n : Nat} {ev : List BusEvent} {before rest : List Bool}
    {level : Bool} {s : State} (h : Channel.SentToStop c n ev before level (s.chan c))
    (ha : (s.chan c).ld.answers = before ++ level :: rest) :
    ∃ t, DoneAfter c (n + 1) s t ∧ (t.chan c).ld.trace = (s.chan c).ld.trace ++ (ev ++ stopEvents) ∧
      (t.chan c).ld.answers = rest ∧ (t.chan c).ld.sda = .released ∧ (t.chan c).ld.scl = .released ∧
      (t.chan c).te.st = .idle ∧ (t.chan c).te.ack = !level ∧
      (t.chan c).te.err = ((s.chan c).te.err || (before.any id || level)) ∧
      (t.chan c).te.vvalid = (s.chan c).te.vvalid ∧ (t.chan c).te.val = (s.chan c).te.val ∧
      (∀ d, d ≠ c → t.chan d = s.chan d) ∧ t.sq = s.sq ∧ t.fault = s.fault := by
  obtain ⟨y, k, h, hs⟩ := h
  obtain ⟨t, done, trace, answers, sda, scl, st, ⟨-, -, -, val, vvalid, ack, err⟩, other⟩ := h.runs.finish hs
  refine ⟨t, done, ?_, ?_, sda, scl, st, ?_, ?_, vvalid.trans h.vvalid, val.trans h.val, other⟩
  · rw [trace, h.trace, List.append_assoc]
  · exact answers.trans (h.rest_eq (by rw [ha, List.append_assoc]; rfl))
  · rw [ack, h.ack, List.foldl_append]; rfl
  · simp [err, h.err]

/-- The same after a NACK: n ticks in all, `sent` between start and stop, the answers left as `rest`
(41_transaction_engine.md R168). -/
def Channel.Nacked (c : Chan) (n : Nat) (sent : List BusEvent) (level : Bool) (rest : List Bool) (x : Channel) :
    Prop :=
  ∃ m ev before, n = m + 1 ∧ ev = startEvents ++ sent ∧ x.ld.answers = before ++ level :: rest ∧
    Channel.SentToStop c m ev before level x ∧ (before.any id || level) = true

/-- A transaction with a NACK, on the machine: `err` is 1. -/
theorem Channel.Nacked.finish {c : Chan} {n : Nat} {sent : List BusEvent} {level : Bool} {rest : List Bool}
    {s : State} (h : Channel.Nacked c n sent level rest (s.chan c)) :
    ∃ t, DoneAfter c n s t ∧
      (t.chan c).ld.trace = (s.chan c).ld.trace ++ (startEvents ++ sent ++ stopEvents) ∧
      (t.chan c).ld.answers = rest ∧ (t.chan c).ld.sda = .released ∧ (t.chan c).ld.scl = .released ∧
      (t.chan c).te.st = .idle ∧ (t.chan c).te.ack = !level ∧ (t.chan c).te.err = true ∧
      (t.chan c).te.vvalid = (s.chan c).te.vvalid ∧ (t.chan c).te.val = (s.chan c).te.val ∧
      (∀ d, d ≠ c → t.chan d = s.chan d) ∧ t.sq = s.sq ∧ t.fault = s.fault := by
  obtain ⟨m, ev, before, rfl, rfl, ha, h, nack⟩ := h
  obtain ⟨t, done, trace, answers, sda, scl, st, ack, err, other⟩ := h.finish ha
  exact ⟨t, done, trace, answers, sda, scl, st, ack, by rw [err, nack, Bool.or_true], other⟩

section Nacks
variable {c : Chan} {x : Channel} {level : Bool} {rest : List Bool}

/-- A NACK on the write address. -/
theorem Channel.nacked_address {k : Kind} (hs : x.te.st = .start k) (hm : x.be.mode = .idle)
    (ha : x.ld.answers = true :: rest) :
    Channel.Nacked c 12 (writtenByte (addrWrite c) true) true rest x := by
  obtain ⟨y, hy, st⟩ := Channel.sent_address (c := c) hs hm ha
  exact ⟨11, _, [], rfl, rfl, ha, ⟨y, k, hy, st⟩, rfl⟩

/-- A NACK on the register. -/
theorem Channel.nacked_register {k : Kind} (hs : x.te.st = .start k) (hm : x.be.mode = .idle)
    (ha : x.ld.answers = false :: true :: rest) :
    Channel.Nacked c 22 (writtenByte (addrWrite c) false ++ writtenByte x.te.reg true) true rest x := by
  obtain ⟨y, hy, st⟩ := Channel.sent_register (c := c) hs hm ha
  exact ⟨21, _, [false], rfl, by simp [registerEvents], ha, ⟨y, k, hy, st⟩, rfl⟩

/-- A NACK on the first data byte of a Write16 that stops it. -/
theorem Channel.nacked_firstData (hs : x.te.st = .start (.write .write16)) (hm : x.be.mode = .idle)
    (hn : Config.nackMidWrite = .shortCircuit) (ha : x.ld.answers = false :: false :: true :: rest) :
    Channel.Nacked c 32 (writtenByte (addrWrite c) false ++ writtenByte x.te.reg false ++
      writtenByte (x.te.wval.extractLsb' 8 8) true) true rest x := by
  obtain ⟨y, hy, st⟩ := Channel.sent_firstData (c := c) hs hm ha
  have st : y.te.st = .stop (.write .write16) := by simpa [wdataFirst, stopOnNack, hn] using st
  exact ⟨31, _, [false, false], rfl, by simp [registerEvents, writeByteOf, wdataFirst], ha, ⟨y, _, hy, st⟩, rfl⟩

/-- A NACK on the first data byte of a Write16 that goes on. -/
theorem Channel.nacked_secondData (hs : x.te.st = .start (.write .write16)) (hm : x.be.mode = .idle)
    (hn : Config.nackMidWrite = .continueOn) (ha : x.ld.answers = false :: false :: true :: level :: rest) :
    Channel.Nacked c 42 (writtenByte (addrWrite c) false ++ writtenByte x.te.reg false ++
      writtenByte (x.te.wval.extractLsb' 8 8) true ++ writtenByte (x.te.wval.extractLsb' 0 8) level) level rest
      x := by
  obtain ⟨y, hy, st⟩ := Channel.sent_secondData (c := c) hs hm ha (by simp [stopOnNack, hn])
  exact ⟨41, _, [false, false, true], rfl, by simp [registerEvents], ha, ⟨y, _, hy, st⟩, rfl⟩

/-- A NACK on the read address. -/
theorem Channel.nacked_readAddress {k : RKind} (hs : x.te.st = .start (.read k)) (hm : x.be.mode = .idle)
    (ha : x.ld.answers = false :: false :: true :: rest) :
    Channel.Nacked c 33 (writtenByte (addrWrite c) false ++ writtenByte x.te.reg false ++ startEvents ++
      writtenByte (addrRead c) true) true rest x := by
  obtain ⟨y, hy, st, -⟩ := Channel.sent_readAddress (c := c) hs hm ha
  exact ⟨32, _, [false, false], rfl, by simp [registerEvents], ha, ⟨y, _, hy, st⟩, rfl⟩

end Nacks

/-! ## Writes -/

/-- A write whose bytes are all acknowledged but perhaps the last (30_encoding.md R103). -/
theorem Channel.sentToStop_write {c : Chan} {x : Channel} {level : Bool} {rest : List Bool} {k : WKind}
    (hs : x.te.st = .start (.write k)) (hm : x.be.mode = .idle)
    (ha : x.ld.answers = List.replicate (1 + (writeData k x.te.wval).length) false ++ level :: rest) :
    ∃ ev, Channel.SentToStop c (11 + 10 * (1 + (writeData k x.te.wval).length)) ev
        (List.replicate (1 + (writeData k x.te.wval).length) false) level x ∧
      ev ++ stopEvents = writeFrame c x.te.reg (writeData k x.te.wval) level := by
  cases k with
  | write8 =>
    obtain ⟨y, hy, st⟩ := Channel.sent_firstData (c := c) hs hm ha
    have st : y.te.st = .stop (.write .write8) := by simpa [wdataFirst, afterWdata] using st
    exact ⟨_, ⟨y, _, hy, st⟩, by simp [writeFrame, registerEvents, writeData, writeByteOf, wdataFirst]⟩
  | write16 =>
    obtain ⟨y, hy, st⟩ := Channel.sent_secondData (c := c) hs hm ha rfl
    exact ⟨_, ⟨y, _, hy, st⟩, by simp [writeFrame, registerEvents, writeData]⟩

/-- Settles O32: the bytes of a write up to its stop, where all but the last are acknowledged; then each place of
a NACK. -/
theorem writeOnTheWire : Obligations.WriteOnTheWire := by
  refine ⟨fun c s k level rest hs hm he ha => ?_, fun c s k rest n level sent hs hm h => ?_⟩
  · obtain ⟨ev, hy, frame⟩ := Channel.sentToStop_write (c := c) hs hm ha
    obtain ⟨t, done, trace, answers, sda, scl, idle, ack, err, vvalid, -, other⟩ := hy.finish ha
    have ticks : ∀ m, 11 + m + 1 = 12 + m := fun m => by omega
    refine ⟨t, ticks _ ▸ done, by rw [trace, frame], answers, sda, scl, idle, ack, ?_, vvalid, other⟩
    simpa [he] using err
  · have nacked : Channel.Nacked c n sent level rest (s.chan c) := by
      obtain ⟨ha, rfl, rfl, rfl⟩ | ⟨ha, rfl, rfl, rfl⟩ | ⟨ha, rfl, rfl, rfl, hn, rfl⟩ |
        ⟨ha, rfl, rfl, hn, rfl⟩ := h
      · exact Channel.nacked_address hs hm ha
      · exact Channel.nacked_register hs hm ha
      · exact Channel.nacked_firstData hs hm hn ha
      · exact Channel.nacked_secondData hs hm hn ha
    obtain ⟨t, done, trace, answers, sda, scl, idle, ack, err, vvalid, -, other⟩ := nacked.finish
    exact ⟨t, done, trace, answers, sda, scl, idle, ack, err, vvalid, other⟩

end Sys2Proof.Machine

namespace Sys2Proof.Machine

/-! ## The bytes a read takes -/

theorem shiftIn_toNat (acc : BitVec 24) (b : Byte) :
    (shiftIn acc b).toNat = (acc.toNat * 256 + b.toNat) % 2 ^ 24 := by
  have hb := b.isLt
  have high : acc.toNat <<< 8 % 2 ^ 24 = 2 ^ 8 * (acc.toNat % 2 ^ 16) := by
    rw [Nat.shiftLeft_eq]; omega
  simp only [shiftIn, BitVec.toNat_or, BitVec.toNat_shiftLeft, BitVec.toNat_setWidth, high]
  rw [Nat.mod_eq_of_lt (by omega : b.toNat < 2 ^ 24), ← Nat.two_pow_add_eq_or_of_lt hb]
  omega

/-- The big-endian number of the bytes, after those that gave n. -/
def bigEndianFrom (n : Nat) (data : List Byte) : Nat := data.foldl (fun n b => n * 256 + b.toNat) n

theorem bigEndian_eq (data : List Byte) : bigEndian data = bigEndianFrom 0 data := rfl

theorem bigEndianFrom_cons (n : Nat) (b : Byte) (data : List Byte) :
    bigEndianFrom n (b :: data) = bigEndianFrom (n * 256 + b.toNat) data := rfl

theorem bigEndianFrom_lt (data : List Byte) {n m : Nat} (h : n < 256 ^ m) :
    bigEndianFrom n data < 256 ^ (m + data.length) := by
  induction data generalizing n m with
  | nil => exact h
  | cons b data ih =>
    have hb := b.isLt
    rw [bigEndianFrom_cons, List.length_cons, Nat.add_comm data.length, ← Nat.add_assoc]
    exact ih (by rw [Nat.pow_succ]; omega)

/-- Bytes shifted in are the big-endian number, cut to 24 bits (41_transaction_engine.md R170). -/
theorem foldl_shiftIn_toNat (data : List Byte) {acc : BitVec 24} {n : Nat} (h : acc.toNat = n % 2 ^ 24) :
    (data.foldl shiftIn acc).toNat = bigEndianFrom n data % 2 ^ 24 := by
  induction data generalizing acc n with
  | nil => exact h
  | cons b data ih =>
    have hb : (shiftIn acc b).toNat = (n * 256 + b.toNat) % 2 ^ 24 := by
      rw [shiftIn_toNat, h]
      omega
    exact ih hb

/-- A read has three bytes at most, and none of their bits is cut. -/
theorem foldl_shiftIn_eq_bigEndian {data : List Byte} (h : data.length ≤ 3) :
    (data.foldl shiftIn 0).toNat = bigEndian data := by
  have lt : bigEndianFrom 0 data < 256 ^ (0 + data.length) := bigEndianFrom_lt data (by decide)
  have le : 256 ^ (0 + data.length) ≤ 256 ^ 3 := Nat.pow_le_pow_right (by decide) (by omega)
  rw [foldl_shiftIn_toNat (n := 0) data rfl, bigEndian_eq]
  exact Nat.mod_eq_of_lt (lt.trans_le le)

/-- The events of a read's data bytes: ACK for more, NACK for the last (R162). -/
def readDataEvents (data : List Byte) : List BusEvent :=
  (data.dropLast.flatMap fun b => readByteEvents b true) ++
    data.getLast?.toList.flatMap fun b => readByteEvents b false

theorem readDataEvents_cons (v : Byte) {data : List Byte} (h : data ≠ []) :
    readDataEvents (v :: data) = readByteEvents v true ++ readDataEvents data := by
  obtain ⟨w, data, rfl⟩ := List.exists_cons_of_ne_nil h
  simp [readDataEvents]

/-- The data bytes still to come in a Data state. -/
def bytesLeft (d : RData) : Nat := nbytes (.read (rdataKind d)) - rdataIndex d

/-- A Data state is the last of its read, or one more follows (R171). -/
theorem afterRdata_cases (d : RData) :
    (lastByte d = true ∧ bytesLeft d = 1 ∧ afterRdata d = .stop (.read (rdataKind d))) ∨
    ∃ d', lastByte d = false ∧ bytesLeft d = bytesLeft d' + 1 ∧ 0 < bytesLeft d' ∧ afterRdata d = .rdata d' := by
  cases d with
  | r8d0 | r16d1 | r24d2 => exact .inl ⟨rfl, rfl, rfl⟩
  | r16d0 => exact .inr ⟨.r16d1, rfl, rfl, by decide, rfl⟩
  | r24d0 => exact .inr ⟨.r24d1, rfl, rfl, by decide, rfl⟩
  | r24d1 => exact .inr ⟨.r24d2, rfl, rfl, by decide, rfl⟩

/-- The data bytes of a read, up to its stop (41_transaction_engine.md R170). -/
theorem Channel.Runs.readData {c : Chan} (data : List Byte) {rest : List Bool} {d : RData} {x : Channel}
    (hs : x.te.st = .rdata d) (hm : x.be.mode = .idle) (hl : data.length = bytesLeft d)
    (ha : x.ld.answers = data.flatMap msbFirst ++ rest) :
    ∃ y k, Channel.Runs c (10 * data.length) x y ∧ y.ld.trace = x.ld.trace ++ readDataEvents data ∧
      y.ld.answers = rest ∧ y.te.st = .stop k ∧ y.te.val = data.foldl shiftIn x.te.acc ∧ y.te.vvalid = true ∧
      y.te.ack = x.te.ack ∧ y.te.err = x.te.err := by
  induction data generalizing d x with
  | nil =>
    obtain ⟨-, left, -⟩ | ⟨d', -, left, -⟩ := afterRdata_cases d
    · rw [left] at hl; cases hl
    · rw [left] at hl; cases hl
  | cons v data ih =>
    obtain ⟨y, run, trace, answers, mode, te⟩ :=
      Channel.Runs.read (c := c) hs hm v (data.flatMap msbFirst ++ rest) (by simpa using ha)
    obtain ⟨last, left, after⟩ | ⟨d', last, left, pos, after⟩ := afterRdata_cases d
    · obtain rfl : data = [] := List.eq_nil_of_length_eq_zero (by simpa [left] using hl)
      refine ⟨y, .read (rdataKind d), run, ?_, answers, ?_⟩
      · rw [trace, sendAck, last]; simp [readDataEvents]
      · simp [te, TransEngine.byteRead, last, after]
    · have hl' : data.length = bytesLeft d' := by simpa [left] using hl
      obtain ⟨z, k, run', trace', answers', st, val, vvalid, ack, err⟩ :=
        ih (by rw [te]; exact after) mode hl' answers
      refine ⟨z, k, ?_, ?_, answers', st, ?_, vvalid, ?_, ?_⟩
      · rw [List.length_cons, Nat.mul_succ, Nat.add_comm]
        exact run.append run'
      · have more : data ≠ [] := by
          rintro rfl
          exact absurd pos (by rw [← hl']; decide)
        rw [trace', trace, sendAck, last, readDataEvents_cons v more, List.append_assoc]; rfl
      · rw [val, te]; rfl
      · rw [ack, te]; rfl
      · rw [err, te]; rfl

/-! ## Reads -/

/-- Settles O33: the written bytes with their ACKs, the data bytes, and the stop; then each place of a NACK. -/
theorem readOnTheWire : Obligations.ReadOnTheWire := by
  refine ⟨fun c s k data rest hs hm he hl ha => ?_, fun c s k rest n sent hs hm h => ?_⟩
  · have left : data.length = bytesLeft (rdataFirst k) := by cases k <;> exact hl
    have short : data.length ≤ 3 := left.trans_le (by cases k <;> decide)
    have ha : (s.chan c).ld.answers = [false, false, false] ++ (data.flatMap msbFirst ++ rest) := by
      rw [ha, List.append_assoc]
    obtain ⟨y, hy, st, acc⟩ := Channel.sent_readAddress (c := c) hs hm ha
    obtain ⟨z, k', run, trace, answers, st', val, vvalid, ack, err⟩ :=
      Channel.Runs.readData data st hy.mode left (hy.rest_eq ha)
    obtain ⟨t, done, trace', answers', sda, scl, idle, ⟨-, -, -, val', vvalid', ack', err'⟩, other⟩ :=
      (hy.runs.append run).finish st'
    have ticks : ∀ m, 32 + m + 1 = 33 + m := fun m => by omega
    refine ⟨t, ticks _ ▸ done, ?_, answers'.trans answers, sda, scl, idle, vvalid'.trans vvalid, ?_, ?_, ?_, other⟩
    · rw [trace', trace, hy.trace]
      simp only [readFrame, registerEvents, readDataEvents, List.append_assoc]
    · rw [val', val, acc rfl, foldl_shiftIn_eq_bigEndian short]
    · rw [ack', ack, hy.ack]; rfl
    · rw [err', err, hy.err, he]; rfl
  · have nacked : Channel.Nacked c n sent true rest (s.chan c) := by
      obtain ⟨ha, rfl, rfl⟩ | ⟨ha, rfl, rfl⟩ | ⟨ha, rfl, rfl⟩ := h
      · exact Channel.nacked_address hs hm ha
      · exact Channel.nacked_register hs hm ha
      · exact Channel.nacked_readAddress hs hm ha
    obtain ⟨t, done, trace, answers, sda, scl, idle, ack, err, vvalid, val, other⟩ := nacked.finish
    exact ⟨t, done, trace, answers, sda, scl, idle, vvalid, val, ack, err, other⟩

end Sys2Proof.Machine

namespace Sys2Proof.Machine

/-! ## Conditions and BREADY (40_bit_engine.md R140, R141, R145) -/

theorem exec_bstart_ok (c : Chan) (s : State) (h : (s.chan c).te.st = .idle) (hm : (s.chan c).be.mode = .idle) :
    exec (.bstart c) s = .next ((s.setLines c (s.chan c).ld.startCond).respond .unit) := by
  simp [exec, execBstart, guardOwner_eq, guardReady_eq, h, hm]

theorem exec_bstop_ok (c : Chan) (s : State) (h : (s.chan c).te.st = .idle) (hm : (s.chan c).be.mode = .idle) :
    exec (.bstop c) s = .next ((s.setLines c (s.chan c).ld.stopCond).respond .unit) := by
  simp [exec, execBstop, guardOwner_eq, guardReady_eq, h, hm]

/-- Settles O12: behind both guards BSTART is the start condition, whose events are known. -/
theorem bstartSendsAStart : Obligations.BstartSendsAStart := by
  intro c s h hm
  rw [exec_bstart_ok c s h hm, LineDriver.startCond_eq]
  rfl

/-- Settles O13: behind both guards BSTOP is the stop condition, whose events are known. -/
theorem bstopSendsAStop : Obligations.BstopSendsAStop := by
  intro c s h hm
  rw [exec_bstop_ok c s h hm, LineDriver.stopCond_eq]
  rfl

/-- The word of a row for one channel, with every other field 0, is the one the assembler makes. -/
theorem rowWord_toNat (op : BitVec 5) (c : Chan) : rowWord op.toNat c = channelWord op c := by
  revert op
  cases c <;> decide

/-- Settles O23: the word is BREADY's own, and BREADY has no guard. -/
theorem breadyResponds : Obligations.BreadyResponds := by
  refine fun c s => ⟨?_, rfl⟩
  have word : rowWord 0x06 c = encode (.bready c) := rowWord_toNat 0x06 c
  rw [word]
  exact decodeOfEncode _

/-! ## One call of a byte operation (R135, R136) -/

section Calls
variable {c : Chan} {x : Channel}

theorem Channel.writeByte_idle (v : Byte) (hm : x.be.mode = .idle) : x.writeByte c v = .ok (x.writeLatch v) := by
  simp only [Channel.writeByte, hm]

theorem Channel.writeByte_bit (v : Byte) (hm : x.be.mode = .writing) (hi : x.be.idx.val ≤ 7) :
    x.writeByte c v = .ok x.writeBit := by
  simp only [Channel.writeByte, hm, if_pos (show x.be.idx ≤ 7 from hi)]

theorem Channel.writeByte_ack (v : Byte) (hm : x.be.mode = .writing) (hi : x.be.idx.val = 8) :
    x.writeByte c v = .ok (x.writeAck c) := by
  simp only [Channel.writeByte, hm, if_neg (show ¬ x.be.idx ≤ 7 by omega)]

theorem Channel.readByte_idle (a : Bool) (hm : x.be.mode = .idle) : x.readByte c a = .ok (x.readLatch a) := by
  simp only [Channel.readByte, hm]

theorem Channel.readByte_bit (a : Bool) (hm : x.be.mode = .reading) (hi : x.be.idx.val ≤ 7) :
    x.readByte c a = .ok (x.readBit c) := by
  simp only [Channel.readByte, hm, if_pos (show x.be.idx ≤ 7 from hi)]

theorem Channel.readByte_ack (a : Bool) (hm : x.be.mode = .reading) (hi : x.be.idx.val = 8) :
    x.readByte c a = .ok x.readAck := by
  simp only [Channel.readByte, hm, if_neg (show ¬ x.be.idx ≤ 7 by omega)]

end Calls

/-- Settles O17: each call is the latch, a data bit or the ACK phase, as `mode` and `idx` say. -/
theorem bwriteCallByCall : Obligations.BwriteCallByCall := by
  refine fun c v s h => ⟨fun hm => ?_, fun hm hi => ?_, fun hm hi => ?_⟩
  · rw [exec_bwrite_ok c v s h (Channel.writeByte_idle v hm)]
    rfl
  · rw [exec_bwrite_ok c v s h (Channel.writeByte_bit v hm hi), Channel.writeBit_eq]
    rfl
  · obtain ⟨b, n, hb, e⟩ := (s.chan c).writeAck_spec c
    refine ⟨b, _, exec_bwrite_ok c v s h (Channel.writeByte_ack v hm hi), ?_⟩
    rw [State.chan_respond, State.chan_setChan, e]
    exact ⟨rfl, fun a rest ha => ⟨hb a rest ha, by rw [ha]; rfl⟩, rfl, rfl, rfl, rfl, rfl,
      fun d hd => State.chan_setChan_ne s _ hd, rfl, rfl, rfl, rfl, rfl⟩

/-- Settles O19: each call is the latch, a sampled bit or the ACK sent, as `mode` and `idx` say. -/
theorem breadCallByCall : Obligations.BreadCallByCall := by
  refine fun c a s h => ⟨fun hm => ?_, fun hm hi hsda => ?_, fun hm hi => ?_⟩
  · rw [exec_bread_ok c a s h (Channel.readByte_idle a hm)]
    rfl
  · obtain ⟨b, n, hb, e⟩ := (s.chan c).readBit_spec c hsda
    refine ⟨b, _, exec_bread_ok c a s h (Channel.readByte_bit a hm hi), ?_⟩
    rw [State.chan_respond, State.chan_setChan, e]
    exact ⟨rfl, fun a rest ha => ⟨hb a rest ha, by rw [ha]; rfl⟩, hsda, rfl, rfl, rfl, rfl,
      fun d hd => State.chan_setChan_ne s _ hd, rfl, rfl, rfl, rfl, rfl⟩
  · rw [exec_bread_ok c a s h (Channel.readByte_ack a hm hi), Channel.readAck_eq]
    rfl

/-! ## Calls one after the other -/

/-- A later call replaces the channel and the response of an earlier one. -/
theorem State.setChan_respond_respond (s : State) (c : Chan) (x y : Channel) (q r : Response) :
    (((s.setChan c x).respond q).setChan c y).respond r = (s.setChan c y).respond r :=
  congrArg (fun chans => { s with chans, resp := some r }) (PerChan.set_set s.chans c x y)

/-- Calls that all succeed: the first does, and the others from where it ends. -/
theorem foldlM_cons_ok {α : Type} {op : Channel → α → Except Fault Channel} {a : α} {as : List α}
    {x z : Channel} (e : (a :: as).foldlM op x = .ok z) : ∃ y, op x a = .ok y ∧ as.foldlM op y = .ok z := by
  rw [List.foldlM_cons] at e
  cases first : op x a with
  | ok y => rw [first] at e; exact ⟨y, rfl, e⟩
  | error f => rw [first] at e; cases e

/-- The host's calls of one byte operation run on the channel alone; the response is the last call's. -/
theorem execAll_calls {α : Type} {c : Chan} {cmd : α → Instr} {op : Channel → α → Except Fault Channel}
    {r : Channel → Response}
    (run : ∀ a s y, (s.chan c).te.st = .idle → op (s.chan c) a = .ok y →
      exec (cmd a) s = .next ((s.setChan c y).respond (r y)) ∧ y.te = (s.chan c).te)
    (a : α) (as : List α) {s : State} {y : Channel} (h : (s.chan c).te.st = .idle)
    (e : (a :: as).foldlM op (s.chan c) = .ok y) :
    execAll (cmd a :: as.map cmd) s = .next ((s.setChan c y).respond (r y)) := by
  induction as generalizing a s with
  | nil =>
    obtain ⟨x, first, e⟩ := foldlM_cons_ok e
    cases e
    rw [execAll, (run a s y h first).1]
    rfl
  | cons b bs ih =>
    obtain ⟨x, first, e⟩ := foldlM_cons_ok e
    obtain ⟨ran, te⟩ := run a s x h first
    have chan : ((s.setChan c x).respond (r x)).chan c = x := State.chan_setChan s c x
    rw [execAll, ran, List.map_cons]
    exact (ih b (by rw [chan, te, h]) (by rw [chan]; exact e)).trans
      (congrArg Host.Outcome.next (State.setChan_respond_respond s c x y _ _))

theorem execAll_bwrites {c : Chan} (v : Byte) (vs : List Byte) {s : State} {y : Channel}
    (h : (s.chan c).te.st = .idle) (e : (v :: vs).foldlM (fun x v => x.writeByte c v) (s.chan c) = .ok y) :
    execAll (.bwrite c v :: vs.map (.bwrite c)) s = .next ((s.setChan c y).respond (.bool y.be.ackr)) :=
  execAll_calls (r := fun y => .bool y.be.ackr)
    (fun a s _ hs ha => ⟨exec_bwrite_ok c a s hs ha, Channel.writeByte_te ha⟩) v vs h e

theorem execAll_breads {c : Chan} (a : Bool) (as : List Bool) {s : State} {y : Channel}
    (h : (s.chan c).te.st = .idle) (e : (a :: as).foldlM (fun x a => x.readByte c a) (s.chan c) = .ok y) :
    execAll (.bread c a :: as.map (.bread c)) s = .next ((s.setChan c y).respond (.u8 y.be.sh)) :=
  execAll_calls (r := fun y => .u8 y.be.sh)
    (fun a s _ hs ha => ⟨exec_bread_ok c a s hs ha, Channel.readByte_te ha⟩) a as h e

theorem idx_add_one {i : Fin 9} (h : i.val ≤ 7) : (i + 1).val = i.val + 1 :=
  Fin.val_add_one_of_lt (show i < Fin.last 8 from Nat.lt_succ_of_le h)

/-- In the middle of a byte write every call sends a data bit, whatever byte it carries, and keeps `ackr`
(R135). -/
theorem Channel.foldlM_writeBits {c : Chan} (vs : List Byte) {x : Channel} (hm : x.be.mode = .writing)
    (hi : x.be.idx.val + vs.length ≤ 8) :
    vs.foldlM (fun x v => x.writeByte c v) x = .ok (Channel.writeBit^[vs.length] x) ∧
      (Channel.writeBit^[vs.length] x).be.ackr = x.be.ackr := by
  induction vs generalizing x with
  | nil => exact ⟨rfl, rfl⟩
  | cons v vs ih =>
    rw [List.length_cons] at hi
    have bit : x.writeByte c v = .ok x.writeBit := Channel.writeByte_bit v hm (by omega)
    have idx : x.writeBit.be.idx.val = x.be.idx.val + 1 := idx_add_one (by omega)
    rw [List.foldlM_cons, bit]
    exact ih hm (by omega)

/-- In the middle of a byte read every call takes a data bit, whatever ACK it asks for (R136). -/
theorem Channel.foldlM_readBits {c : Chan} (as : List Bool) {x : Channel} (hm : x.be.mode = .reading)
    (hi : x.be.idx.val + as.length ≤ 8) :
    as.foldlM (fun x a => x.readByte c a) x = .ok ((fun z => z.readBit c)^[as.length] x) := by
  induction as generalizing x with
  | nil => rfl
  | cons a as ih =>
    rw [List.length_cons] at hi
    have bit : x.readByte c a = .ok (x.readBit c) := Channel.readByte_bit a hm (by omega)
    have idx : (x.readBit c).be.idx.val = x.be.idx.val + 1 := idx_add_one (by omega)
    rw [List.foldlM_cons, bit]
    exact ih hm (by omega)

/-- Ten calls of a byte operation: the latch takes x to y, whichever eight data bits follow take y to z, and
whatever the last carries takes z to w. -/
theorem foldlM_tenCalls {α : Type} {op : Channel → α → Except Fault Channel} {x y z w : Channel} {a : α}
    {later : List α} (hl : later.length = 9) (latch : op x a = .ok y)
    (bits : ∀ as : List α, as.length = 8 → as.foldlM op y = .ok z) (last : ∀ b, op z b = .ok w) :
    (a :: later).foldlM op x = .ok w := by
  have ne : later ≠ [] := List.ne_nil_of_length_pos (by omega)
  have eight : later.dropLast.foldlM op y = .ok z := bits _ (by rw [List.length_dropLast, hl])
  rw [← List.dropLast_concat_getLast ne, List.foldlM_cons, latch]
  simp only [bind, Except.bind, List.foldlM_append, eight, List.foldlM_cons, last]
  rfl

/-- Ten calls of a byte write on the channel alone (R135). -/
theorem Channel.foldlM_writeByte {c : Chan} {x : Channel} (v : Byte) {later : List Byte} {level : Bool}
    {rest : List Bool} (hm : x.be.mode = .idle) (hl : later.length = 9) (ha : x.ld.answers = level :: rest) :
    (v :: later).foldlM (fun x v => x.writeByte c v) x = .ok { x with
      ld := { x.ld with
        sda := .released
        scl := .drivenLow
        trace := x.ld.trace ++ writtenByte v level
        answers := rest }
      be := { x.be with mode := .idle, sh := 0, idx := 8, ackr := !level } } := by
  have eight : Channel.writeBit^[8] (x.writeLatch v) = _ := x.eightBits v
  refine foldlM_tenCalls (z := Channel.writeBit^[8] (x.writeLatch v)) hl (Channel.writeByte_idle v hm)
    (fun bits hb => ?_) fun last => ?_
  · rw [(Channel.foldlM_writeBits bits rfl (by rw [hb]; exact Nat.le_refl 8)).1, hb]
  · rw [eight, Channel.writeByte_ack last rfl rfl, Channel.writeAck_listed _ c level rest]
    · simp only [writtenByte, List.append_assoc]
    · exact ha

/-- Settles O18: the ten calls on the channel alone; fewer than ten end before the ACK phase. -/
theorem tenBwritesSendAByte : Obligations.TenBwritesSendAByte := by
  intro c v later level rest s h hm hl ha
  refine ⟨⟨_, execAll_bwrites v later h (Channel.foldlM_writeByte v hm hl ha), rfl, State.chan_setChan s c _,
    fun d hd => State.chan_setChan_ne s _ hd, rfl, rfl⟩, fun n hn => ?_⟩
  have short : (later.take n).length ≤ 8 := by rw [List.length_take]; omega
  obtain ⟨bits, ackr⟩ := Channel.foldlM_writeBits (c := c) (later.take n) (x := (s.chan c).writeLatch v) rfl
    (by simpa [Channel.writeLatch] using short)
  refine ⟨_, execAll_bwrites v (later.take n) h ?_, congrArg (some ∘ Response.bool) ackr⟩
  rw [List.foldlM_cons, Channel.writeByte_idle v hm]
  exact bits

/-- The eight data bits of a byte read, from its latch, its bits as listed (R136). -/
theorem Channel.eightReadBits {c : Chan} {x : Channel} (a : Bool) (v : Byte) {rest : List Bool}
    (ha : x.ld.answers = msbFirst v ++ rest) :
    (fun z : Channel => z.readBit c)^[8] (x.readLatch a) = { x with
      ld := { x.ld with
        sda := .released
        scl := .drivenLow
        trace := x.ld.trace ++ .release .sda :: (msbFirst v).flatMap takeBitEvents
        answers := rest }
      be := { x.be with mode := .reading, sh := v, idx := 8, acks := a } } := by
  simp only [Function.iterate_succ_apply, Function.iterate_zero, id]
  rw [Channel.readBit_listed (x.readLatch a) c _ _ rfl ha]
  iterate 7 rw [Channel.readBit_listed _ c _ _ rfl rfl]
  simp only [Channel.readLatch, shiftIn_eight, msbFirst, List.flatMap_cons, List.flatMap_nil]
  simp [LineDriver.release, lineEvent]

/-- Ten calls of a byte read on the channel alone (R136). -/
theorem Channel.foldlM_readByte {c : Chan} {x : Channel} (a : Bool) {later : List Bool} (v : Byte)
    {rest : List Bool} (hm : x.be.mode = .idle) (hl : later.length = 9) (ha : x.ld.answers = msbFirst v ++ rest) :
    (a :: later).foldlM (fun x a => x.readByte c a) x = .ok { x with
      ld := { x.ld with
        sda := if a then .drivenLow else .released
        scl := .drivenLow
        trace := x.ld.trace ++ readByteEvents v a
        answers := rest }
      be := { x.be with mode := .idle, sh := v, idx := 8, acks := a } } := by
  refine foldlM_tenCalls (z := (fun z => z.readBit c)^[8] (x.readLatch a)) hl (Channel.readByte_idle a hm)
    (fun bits hb => ?_) fun last => ?_
  · rw [Channel.foldlM_readBits bits rfl (by rw [hb]; exact Nat.le_refl 8), hb]
  · rw [Channel.eightReadBits a v ha, Channel.readByte_ack last rfl rfl, Channel.readAck_eq]
    simp only [readByteEvents, List.append_assoc, List.cons_append]

/-- Settles O20: the ten calls on the channel alone. -/
theorem tenBreadsReadAByte : Obligations.TenBreadsReadAByte := by
  intro c a later v rest s h hm hl ha
  exact ⟨_, execAll_breads a later h (Channel.foldlM_readByte a v hm hl ha), rfl, State.chan_setChan s c _,
    fun d hd => State.chan_setChan_ne s _ hd, rfl, rfl⟩

/-! ## Recovery (R137) -/

section Recovery
variable {c : Chan} {x : LineDriver} {rest : List Bool}

/-- Past a low SDA, `Recover(c)` is ten pulses, a stop and the verification. -/
theorem LineDriver.recover_sdaLow (ha : x.answers = true :: false :: rest) :
    x.recover c = LineDriver.verifyFree { x with
      sda := .released
      scl := .released
      answers := rest
      trace := x.trace ++ [.release .scl, .release .sda, .settle] ++
        ([.sample .scl true, .sample .sda false] ++ pulseEvents 10 ++ stopEvents) } c := by
  unfold LineDriver.recover
  rw [LineDriver.sample_listed x.letGo c .scl true (false :: rest) rfl ha]
  dsimp only
  rw [LineDriver.sample_listed _ c .sda false rest rfl rfl]
  dsimp only
  rw [LineDriver.pulses_eq _ _ rfl, LineDriver.stopCond_eq, LineDriver.letGo_eq]
  simp only [pulseEvents, stopEvents, Config.recoverPulses, List.append_assoc, List.cons_append, List.nil_append]

theorem LineDriver.verifyFree_sclLow (hl : x.scl = .released) (ha : x.answers = false :: rest) :
    x.verifyFree c = (false, { x with trace := x.trace ++ [.sample .scl false], answers := rest }) := by
  unfold LineDriver.verifyFree
  rw [LineDriver.sample_listed x c .scl false rest hl ha]

theorem LineDriver.verifyFree_sclHigh {b : Bool} (hl : x.scl = .released) (hd : x.sda = .released)
    (ha : x.answers = true :: b :: rest) : x.verifyFree c =
      (b, { x with trace := x.trace ++ [.sample .scl true, .sample .sda b], answers := rest }) := by
  unfold LineDriver.verifyFree
  rw [LineDriver.sample_listed x c .scl true (b :: rest) hl ha]
  dsimp only
  rw [LineDriver.sample_listed _ c .sda b rest]
  · simp only [List.append_assoc, List.cons_append, List.nil_append]
  · exact hd
  · rfl

end Recovery

/-- Settles O21: the four ways the bus can answer. -/
theorem recoveryByAnswers : Obligations.RecoveryByAnswers := by
  intro c i s hi h hm rest ev r answers
  have released : (s.chan c).ld.recover c = (r, { (s.chan c).ld with
      sda := .released
      scl := .released
      trace := (s.chan c).ld.trace ++ [.release .scl, .release .sda, .settle] ++ ev
      answers := rest }) := by
    obtain ⟨ha, rfl, rfl⟩ | ⟨ha, rfl, rfl⟩ | ⟨ha, rfl, rfl⟩ | ⟨ha, rfl⟩ := answers
    · rw [LineDriver.recover_sclLow _ c rest ha, List.append_assoc]; rfl
    · rw [LineDriver.recover_free _ c rest ha, List.append_assoc]; rfl
    · rw [LineDriver.recover_sdaLow ha, LineDriver.verifyFree_sclLow rfl rfl]
      simp only [List.append_assoc]
    · rw [LineDriver.recover_sdaLow ha, LineDriver.verifyFree_sclHigh rfl rfl rfl]
      simp only [List.append_assoc]
  rw [exec_recover_ok c i s hi h hm, released]
  rfl

/-! ## The samples a recovery takes -/

/-- From x to y events were appended, n of them samples. -/
def LineDriver.TakesSamples (n : Nat) (x y : LineDriver) : Prop :=
  ∃ ev, y.trace = x.trace ++ ev ∧ (ev.filter isSample).length = n

section Samples
variable {c : Chan} {x y z : LineDriver} {m n : Nat}

theorem LineDriver.TakesSamples.trans (h : x.TakesSamples m y) (h' : y.TakesSamples n z) :
    x.TakesSamples (m + n) z := by
  obtain ⟨ev, trace, count⟩ := h
  obtain ⟨ev', trace', count'⟩ := h'
  exact ⟨ev ++ ev', by rw [trace', trace, List.append_assoc],
    by rw [List.filter_append, List.length_append, count, count']⟩

theorem LineDriver.TakesSamples.sample {l : Line} {b : Bool} (h : x.sample c l = (b, y)) :
    x.TakesSamples 1 y := by
  cases h
  exact ⟨_, rfl, rfl⟩

theorem LineDriver.TakesSamples.letGo (x : LineDriver) : x.TakesSamples 0 x.letGo :=
  ⟨_, congrArg LineDriver.trace x.letGo_eq, rfl⟩

theorem LineDriver.TakesSamples.stopCond (x : LineDriver) : x.TakesSamples 0 x.stopCond :=
  ⟨_, congrArg LineDriver.trace x.stopCond_eq, rfl⟩

theorem LineDriver.TakesSamples.pulses (n : Nat) (hl : x.scl = .released) :
    x.TakesSamples 0 (LineDriver.pulses n x) := by
  refine ⟨pulseEvents n, congrArg LineDriver.trace (LineDriver.pulses_eq n x hl), ?_⟩
  rw [pulseEvents, List.filter_flatten, List.map_replicate]
  simp [isSample]

/-- The verification samples SCL, and SDA where SCL is high. -/
theorem LineDriver.verifyFree_takesSamples (x : LineDriver) (c : Chan) :
    ∃ n, x.TakesSamples n (x.verifyFree c).2 ∧ 1 ≤ n ∧ n ≤ 2 := by
  unfold LineDriver.verifyFree
  split
  · exact ⟨1, .sample ‹_›, by decide, by decide⟩
  · exact ⟨2, (TakesSamples.sample ‹_›).trans (.sample (c := c) (l := .sda) rfl), by decide, by decide⟩

/-- `Recover(c)` samples SCL, then SDA, then verifies; the pulses and the stop take no sample. -/
theorem LineDriver.recover_takesSamples (x : LineDriver) (c : Chan) :
    ∃ n, x.TakesSamples n (x.recover c).2 ∧ 1 ≤ n ∧ n ≤ 4 := by
  unfold LineDriver.recover
  split
  · exact ⟨1, (TakesSamples.letGo x).trans (.sample ‹_›), by decide, by decide⟩
  · rename_i y h
    have sclSampled : x.TakesSamples 1 y := (TakesSamples.letGo x).trans (.sample h)
    split
    · exact ⟨2, sclSampled.trans (.sample ‹_›), by decide, by decide⟩
    · rename_i z h'
      have scl : z.scl = .released := by
        rw [(LineDriver.sample_lines h').2, (LineDriver.sample_lines h).2, LineDriver.letGo_eq]
      have stopped : x.TakesSamples 2 (LineDriver.pulses Config.recoverPulses z).stopCond :=
        ((sclSampled.trans (.sample h')).trans (.pulses _ scl)).trans (.stopCond _)
      obtain ⟨n, verified, low, high⟩ :=
        (LineDriver.pulses Config.recoverPulses z).stopCond.verifyFree_takesSamples c
      exact ⟨2 + n, stopped.trans verified, by omega, by omega⟩

end Samples

/-- Settles O22: the recovery works on the lines alone, releases them, and takes 1 to 4 samples. -/
theorem recoveryOnAnyBus : Obligations.RecoveryOnAnyBus := by
  intro c i s hi h hm
  obtain ⟨n, ⟨ev, trace, rfl⟩, low, high⟩ := (s.chan c).ld.recover_takesSamples c
  obtain ⟨sda, scl⟩ := (s.chan c).ld.recover_released c
  refine ⟨_, ev, _, exec_recover_ok c i s hi h hm, rfl, ?_⟩
  rw [State.chan_respond, State.chan_setLines]
  exact ⟨sda, scl, trace, low, high, rfl, rfl, fun d hd => State.chan_setLines_ne s _ hd,
    rfl, rfl, rfl, rfl, rfl⟩

end Sys2Proof.Machine

namespace Sys2Proof.Machine

/-! ## Requests (41_transaction_engine.md R164 to R167) -/

section Requests
variable {c : Chan} {k : Option Kind} {reg : Byte} {value : BitVec 16} {s : State}

theorem request_busBusy (hs : (s.chan c).te.st ≠ .idle) : request c k reg value s = .done false s := by
  obtain ⟨-, e⟩ | ⟨h, -⟩ | ⟨h, -⟩ | ⟨h, -⟩ := request_cases c k reg value s
  · exact e
  all_goals exact absurd h hs

/-- An unsupported width asks for nothing, busy or not. -/
theorem request_none : request c none reg value s = .done false s := by
  obtain ⟨-, e⟩ | ⟨-, -, e⟩ | ⟨-, -, ⟨j, h⟩, -⟩ | ⟨-, -, j, h, -⟩ := request_cases c none reg value s
  · exact e
  · exact e
  all_goals cases h

theorem request_midByte (hs : (s.chan c).te.st = .idle) (hm : (s.chan c).be.mode ≠ .idle)
    (hk : k.isSome = true) : request c k reg value s = .raised .bitEngineBusy s := by
  obtain ⟨h, -⟩ | ⟨-, h, -⟩ | ⟨-, -, -, e⟩ | ⟨-, h, -⟩ := request_cases c k reg value s
  · exact absurd hs h
  · rw [h] at hk; cases hk
  · exact e
  · exact absurd h hm

end Requests

/-- The width codes a write supports (R164). -/
theorem writeKind_isSome : ∀ w : BitVec 2, (writeKind w).isSome = decide (w.toNat < 2) := by decide

/-- The width codes a read supports (R164). -/
theorem readKind_isSome : ∀ w : BitVec 2, (readKind w).isSome = decide (w.toNat < 3) := by decide

/-- Settles O24: the four ways a request can go, at each width code. -/
theorem requestAcceptance : Obligations.RequestAcceptance := by
  intro c w reg v s
  have write : exec (.treqwr c w reg v) s = (request c (writeKind w) reg v s).outcome .bool := rfl
  have read : exec (.treqrd c w reg) s = (request c (readKind w) reg 0 s).outcome .bool := rfl
  have wide := writeKind_isSome w
  have wider := readKind_isSome w
  refine ⟨fun hs => ?_, fun hs => ⟨fun hw => ?_, fun hw => ?_, fun hm => ⟨fun hw => ?_, fun hw => ?_⟩,
    fun hm => ⟨fun k hk => ?_, fun k hk => ?_⟩⟩⟩
  · rw [write, read, request_busBusy hs, request_busBusy hs]
    exact ⟨rfl, rfl⟩
  · exact exec_treqwr_invalidWidth c (by simpa [Nat.not_lt.2 hw] using wide) reg v s
  · have hk : readKind w = none := by simpa [hw] using wider
    rw [read, hk, request_none]
    rfl
  · rw [write, request_midByte hs hm (by simpa [hw] using wide)]
    rfl
  · rw [read, request_midByte hs hm (by simpa [hw] using wider)]
    rfl
  · have kind : writeKind w = some (.write k) := by obtain ⟨rfl, rfl⟩ | ⟨rfl, rfl⟩ := hk <;> rfl
    rw [write, kind, request_accepted c _ reg v s hs hm]
    rfl
  · have kind : readKind w = some (.read k) := by
      obtain ⟨rfl, rfl⟩ | ⟨rfl, rfl⟩ | ⟨rfl, rfl⟩ := hk <;> rfl
    rw [read, kind, request_accepted c _ reg 0 s hs hm]
    rfl

end Sys2Proof.Machine

namespace Sys2Proof.Machine

/-! ## Queries (41_transaction_engine.md R163, R176 to R180) -/

/-- The word with a command's OP and channel is the command's own, where the encoder writes it so. -/
theorem decode_rowWord {op : BitVec 5} {c : Chan} {i : Instr} (h : encode i = channelWord op c) :
    decode (rowWord op.toNat c) = some i := by
  rw [rowWord_toNat, ← h]
  exact decodeOfEncode i

/-- Settles O35: `LastValue`, with and without a valid value. -/
theorem tvalueResponds : Obligations.TvalueResponds := by
  refine fun c s => ⟨decode_rowWord (op := 0x0B) rfl, fun hv => ?_, fun hv => ?_⟩
  · simp only [exec, execTvalue, State.lastValue, State.afterLastValue, hv]
    rfl
  · simp only [exec, execTvalue, State.lastValue, State.afterLastValue, hv]
    rfl

/-- Settles O36: the words are the commands' own, and the flags are read as they are. -/
theorem tackAndTerrorRespond : Obligations.TackAndTerrorRespond :=
  fun _ _ => ⟨decode_rowWord (op := 0x0C) rfl, decode_rowWord (op := 0x0D) rfl, rfl, rfl⟩

/-- TTIMINGS without a sample: ok = 0 and draws (R179). -/
theorem exec_ttimings_none {c : Chan} {s : State} (h : (s.chan c).te.tvalid = false) :
    exec (.ttimings c) s = .next ((s.drawIf true).respond s.noTiming) := by
  simp only [exec, execTtimings, h]
  rfl

/-- Settles O37: the Timing response, with and without a sample. -/
theorem ttimingsResponds : Obligations.TtimingsResponds := by
  refine fun c s => ⟨decode_rowWord (op := 0x0F) rfl, fun hv => ?_, fun hv => ?_⟩
  · simp only [exec, execTtimings, hv]
    rfl
  · exact exec_ttimings_none hv

/-- TRSTTIM writes the timing fields of its channel (R180). -/
theorem exec_trsttim (c : Chan) (s : State) : exec (.trsttim c) s =
    .next ((s.setChan c { s.chan c with te := (s.chan c).te.resetTime }).respond .unit) := rfl

theorem exec_trsttim_tvalid {c : Chan} {s t : State} (h : exec (.trsttim c) s = .next t) :
    (t.chan c).te.tvalid = false := by
  cases h
  rw [State.chan_respond, State.chan_setChan]
  rfl

/-- Settles O38: the second reset writes what the first wrote, and no sample is left to respond with. -/
theorem trsttimClears : Obligations.TrsttimClears := by
  refine fun c s => ⟨decode_rowWord (op := 0x10) rfl, rfl, ?_, ?_⟩
  · simp only [execAll, exec_trsttim, State.chan_respond, State.chan_setChan]
    exact congrArg Host.Outcome.next (State.setChan_respond_respond s c _ _ .unit .unit)
  · obtain ⟨u, e⟩ : ∃ u, exec (.trsttim c) s = .next u := ⟨_, rfl⟩
    exact ⟨(u.drawIf true).respond u.noTiming, _, _, _,
      by simp only [execAll, e, exec_ttimings_none (exec_trsttim_tvalid e)], rfl⟩

end Sys2Proof.Machine

namespace Sys2Proof.Machine

/-! ## What a TTICK shows (41_transaction_engine.md R172) -/

section Shown
variable {c : Chan} {s : State} {y : Channel}

theorem tickFrame_ticked (c : Chan) (s : State) (y : Channel) (r : Response) :
    TickFrame c s ((s.ticked c y).respond r) :=
  ⟨fun _ hd => State.chan_ticked_ne s y hd, rfl, rfl, rfl, rfl, rfl⟩

/-- A TTICK leaves its channel as its body did, the timing sample apart, and responds whether a transaction is in
progress. -/
theorem exec_ttick_shows (h : (s.chan c).tickBody c = .ok y) :
    ∃ t, exec (.ttick c) s = .next t ∧ t.resp = some (.bool (decide (y.te.st ≠ .idle))) ∧
      (t.chan c).ld = y.ld ∧ (t.chan c).be = y.be ∧ (t.chan c).te.st = y.te.st ∧
      SameRegisters (t.chan c).te y.te ∧ TickFrame c s t := by
  refine ⟨_, exec_ttick_ok c s h, ?_, ?_⟩
  · rw [State.resp_respond, Channel.free, decide_not]
  · rw [State.chan_respond, State.chan_ticked]
    exact ⟨rfl, rfl, rfl, ⟨rfl, rfl, rfl, rfl, rfl, rfl, rfl⟩, tickFrame_ticked c s y _⟩

/-- A TTICK that ends inside the transaction. -/
theorem exec_ttick_busy (h : (s.chan c).tickBody c = .ok y) (hs : y.te.st ≠ .idle) :
    ∃ t, exec (.ttick c) s = .next t ∧ t.resp = some (.bool true) ∧
      (t.chan c).ld = y.ld ∧ (t.chan c).be = y.be ∧ (t.chan c).te.st = y.te.st ∧
      SameRegisters (t.chan c).te y.te ∧ TickFrame c s t := by
  obtain ⟨t, e, resp, shown⟩ := exec_ttick_shows h
  exact ⟨t, e, by rw [resp, decide_eq_true hs], shown⟩

end Shown

/-- Settles O25: each of the four bodies is one condition, or nothing. -/
theorem ttickConditions : Obligations.TtickConditions := by
  intro c s ld next h
  obtain ⟨hs, rfl, rfl⟩ | ⟨⟨k, hs, rfl⟩, rfl⟩ | ⟨⟨k, hs, rfl⟩, rfl⟩ | ⟨⟨k, hs, rfl⟩, rfl⟩ := h
  · obtain ⟨t, e, resp, ld, be, st, shown⟩ := exec_ttick_shows (Channel.tickBody_idle _ c hs)
    exact ⟨t, e, by rw [resp, hs], ld, be, st.trans hs, shown⟩
  · exact exec_ttick_shows (Channel.tickBody_start _ c hs)
  · exact exec_ttick_shows (Channel.tickBody_restart _ c hs)
  · exact exec_ttick_shows (Channel.tickBody_stop _ c hs)

/-! ## The calls a tick makes inside a byte (40_bit_engine.md R135, R136) -/

section Calls
variable {c : Chan} {x : Channel} {k : Kind} {v : Byte} {next : TState} {stop : Bool} {d : RData}

theorem Channel.tickBody_writeLatch (hs : x.sends c = some (k, v, next, stop)) (hm : x.be.mode = .idle) :
    x.tickBody c = .ok (x.writeLatch v) := by
  obtain ⟨-, e⟩ | ⟨h, -⟩ | ⟨h, -⟩ | ⟨h, -⟩ := x.tickBody_sends c hs
  · exact e
  all_goals cases hm.symm.trans h

theorem Channel.tickBody_writeBit (hs : x.sends c = some (k, v, next, stop)) (hm : x.be.mode = .writing)
    (hi : x.be.idx.val ≤ 7) : x.tickBody c = .ok x.writeBit := by
  obtain ⟨h, -⟩ | ⟨-, -, e⟩ | ⟨-, h, -⟩ | ⟨h, -⟩ := x.tickBody_sends c hs
  · cases hm.symm.trans h
  · exact e
  · exact absurd hi h
  · cases hm.symm.trans h

theorem Channel.tickBody_byteEnd (hs : x.sends c = some (k, v, next, stop)) (hm : x.be.mode = .writing)
    (hi : x.be.idx.val = 8) : x.tickBody c = .ok (x.byteEnd c k next stop) := by
  obtain ⟨h, -⟩ | ⟨-, h, -⟩ | ⟨-, -, e⟩ | ⟨h, -⟩ := x.tickBody_sends c hs
  · cases hm.symm.trans h
  · exact absurd h (by omega)
  · exact e
  · cases hm.symm.trans h

theorem Channel.tickBody_readLatch (hs : x.te.st = .rdata d) (hm : x.be.mode = .idle) :
    x.tickBody c = .ok (x.readLatch (sendAck d)) := by
  rw [x.tickBody_rdata c hs, Channel.readStep, Channel.readByte_idle _ hm]
  rfl

theorem Channel.tickBody_readEnd (hs : x.te.st = .rdata d) (hm : x.be.mode = .reading)
    (hi : x.be.idx.val = 8) :
    x.tickBody c = .ok { x.readAck with te := x.te.byteRead d x.be.sh } := by
  rw [x.tickBody_rdata c hs, Channel.readStep, Channel.readByte_ack _ hm hi]
  rfl

/-- A state that writes a byte is inside a transaction. -/
theorem Channel.st_ne_idle_of_sends (hs : x.sends c = some (k, v, next, stop)) : x.te.st ≠ .idle := by
  intro h
  simp [Channel.sends, h] at hs

/-- So is the state it leads to (41_transaction_engine.md R171). -/
theorem Channel.next_ne_idle_of_sends (hs : x.sends c = some (k, v, next, stop)) : next ≠ .idle := by
  unfold Channel.sends at hs
  split at hs <;> cases hs
  · nofun
  · cases k <;> nofun
  · rename_i d _
    cases d <;> nofun
  · nofun

end Calls

/-! ## The byte a state writes (30_encoding.md R100, 41_transaction_engine.md R160, R161) -/

theorem addrWrite_eq (c : Chan) : addrWrite c = (Config.devAddr c).setWidth 8 <<< 1 := by
  unfold addrWrite
  generalize Config.devAddr c = a
  revert a
  decide

theorem addrRead_eq (c : Chan) : addrRead c = (Config.devAddr c).setWidth 8 <<< 1 ||| 1 := by
  unfold addrRead
  generalize Config.devAddr c = a
  revert a
  decide

/-- TickBody's byte is the one the wire formats name. -/
theorem Channel.sends_of_byteToSend {c : Chan} {x : Channel} {v : Byte} (h : byteToSend c x.te = some v) :
    ∃ k next stop, x.sends c = some (k, v, next, stop) := by
  unfold byteToSend at h
  unfold Channel.sends
  split at h <;> cases h <;> simp only [*]
  · exact ⟨_, _, _, by rw [addrWrite_eq]⟩
  · exact ⟨_, _, _, rfl⟩
  · exact ⟨_, _, _, rfl⟩
  · exact ⟨_, _, _, rfl⟩
  · exact ⟨_, _, _, rfl⟩
  · exact ⟨_, _, _, by rw [addrRead_eq]⟩

theorem sendAck_eq (d : RData) : sendAck d = !finalByte d := by cases d <;> rfl

/-- Settles O26: the byte's calls, one by one, in the states that write and in those that read. -/
theorem ttickInsideAByte : Obligations.TtickInsideAByte := by
  refine fun c s => ⟨fun b hb => ?_, fun d hs => ?_⟩
  · obtain ⟨k, next, stop, hs⟩ := Channel.sends_of_byteToSend hb
    have busy := Channel.st_ne_idle_of_sends hs
    refine ⟨fun hm => ?_, fun hm hi => ?_⟩
    · exact exec_ttick_busy (Channel.tickBody_writeLatch hs hm) busy
    · have e := Channel.tickBody_writeBit hs hm hi
      rw [Channel.writeBit_eq] at e
      exact exec_ttick_busy e busy
  · have busy : (s.chan c).te.st ≠ .idle := by rw [hs]; nofun
    refine ⟨fun hm => ?_, fun hm hi hsda => ?_⟩
    · rw [← sendAck_eq]
      exact exec_ttick_busy (Channel.tickBody_readLatch hs hm) busy
    · have e := (s.chan c).tickBody_readBit c hs hm hi
      obtain ⟨b, n, listed, bit⟩ := (s.chan c).readBit_spec c hsda
      rw [bit] at e
      obtain ⟨t, e, resp, ld, be, shown⟩ := exec_ttick_busy e busy
      exact ⟨b, t, e, resp, listed, by rw [ld, hsda], by rw [ld], by rw [ld], be, shown⟩

end Sys2Proof.Machine

namespace Sys2Proof.Machine

/-! ## Everything a tick can do to its channel (41_transaction_engine.md R172) -/

/-- The calls of the byte in progress that the BitEngine has made, of ten (40_bit_engine.md R135, R136). -/
def Channel.callsMade (x : Channel) : Nat := if x.be.mode = .idle then 0 else x.be.idx.val + 1

/-- What a tick of channel c does: nothing, a whole condition, a byte's call but the last, or the end of a written
or a read byte. -/
inductive Channel.Ticked (c : Chan) (x : Channel) : Channel → Prop
  | idle (hs : x.te.st = .idle) : Ticked c x x
  | start {k : Kind} (hs : x.te.st = .start k) : Ticked c x (x.condition x.ld.startCond (.addr k))
  | restart {k : RKind} (hs : x.te.st = .restart k) : Ticked c x (x.condition x.ld.startCond (.addr2 k))
  | stop {k : Kind} (hs : x.te.st = .stop k) : Ticked c x (x.condition x.ld.stopCond .idle)
  | called {y : Channel} (hs : (x.sends c).isSome = true ∨ ∃ d, x.te.st = .rdata d) (hi : x.callsMade < 9)
      (ht : y.te = x.te) (hc : y.callsMade = x.callsMade + 1) : Ticked c x y
  | wrote {k : Kind} {v : Byte} {next : TState} {stop : Bool} (hs : x.sends c = some (k, v, next, stop))
      (hi : x.callsMade = 9) : Ticked c x (x.byteEnd c k next stop)
  | read {d : RData} (hs : x.te.st = .rdata d) (hi : x.callsMade = 9) :
      Ticked c x { x.readAck with te := x.te.byteRead d x.be.sh }

section Ticked
variable {c : Chan} {x y : Channel}

theorem Channel.callsMade_mid (hm : x.be.mode ≠ .idle) : x.callsMade = x.be.idx.val + 1 := if_neg hm

theorem Channel.callsMade_last (hm : x.be.mode ≠ .idle) (hi : ¬ x.be.idx ≤ 7) : x.callsMade = 9 := by
  rw [Channel.callsMade_mid hm]
  omega

theorem Channel.Ticked.latch (hs : (x.sends c).isSome = true ∨ ∃ d, x.te.st = .rdata d)
    (hm : x.be.mode = .idle) (hy : y.be.mode ≠ .idle) (hi : y.be.idx = 0) (ht : y.te = x.te) :
    x.Ticked c y := by
  have none : x.callsMade = 0 := if_pos hm
  exact .called hs (by omega) ht (by rw [none, Channel.callsMade_mid hy, hi]; rfl)

theorem Channel.Ticked.bit (hs : (x.sends c).isSome = true ∨ ∃ d, x.te.st = .rdata d)
    (hm : x.be.mode ≠ .idle) (hx : x.be.idx ≤ 7) (hy : y.be.mode = x.be.mode) (hi : y.be.idx = x.be.idx + 1)
    (ht : y.te = x.te) : x.Ticked c y := by
  have mid : y.be.mode ≠ .idle := hy ▸ hm
  exact .called hs (by rw [Channel.callsMade_mid hm]; omega) ht
    (by rw [Channel.callsMade_mid hm, Channel.callsMade_mid mid, hi, idx_add_one hx])

/-- A state that writes a byte. -/
theorem Channel.Ticked.of_sends (hs : (x.sends c).isSome = true) (e : x.tickBody c = .ok y) :
    x.Ticked c y := by
  obtain ⟨⟨k, v, next, stop⟩, hs'⟩ := Option.isSome_iff_exists.1 hs
  obtain ⟨hm, e'⟩ | ⟨hm, hi, e'⟩ | ⟨hm, hi, e'⟩ | ⟨hm, e'⟩ := x.tickBody_sends c hs' <;> rw [e'] at e <;> cases e
  · exact .latch (.inl hs) hm nofun rfl rfl
  · exact .bit (.inl hs) (by rw [hm]; nofun) hi rfl rfl rfl
  · exact .wrote hs' (Channel.callsMade_last (by rw [hm]; nofun) hi)

/-- A Data state of a read. -/
theorem Channel.Ticked.of_rdata {d : RData} (hs : x.te.st = .rdata d) (e : x.tickBody c = .ok y) :
    x.Ticked c y := by
  rw [x.tickBody_rdata c hs] at e
  obtain ⟨hm, e'⟩ | ⟨hm, hi, e'⟩ | ⟨hm, hi, e'⟩ | ⟨hm, e'⟩ := x.readStep_cases c d <;> rw [e'] at e <;> cases e
  · exact .latch (.inr ⟨d, hs⟩) hm nofun rfl rfl
  · exact .bit (.inr ⟨d, hs⟩) (by rw [hm]; nofun) hi rfl rfl rfl
  · exact .read hs (Channel.callsMade_last (by rw [hm]; nofun) hi)

theorem Channel.tickBody_ticked (e : x.tickBody c = .ok y) : x.Ticked c y := by
  cases hs : x.te.st with
  | idle => rw [x.tickBody_idle c hs] at e; cases e; exact .idle hs
  | start k => simp only [Channel.tickBody, hs] at e; cases e; exact .start hs
  | restart k => simp only [Channel.tickBody, hs] at e; cases e; exact .restart hs
  | stop k => simp only [Channel.tickBody, hs] at e; cases e; exact .stop hs
  | rdata d => exact .of_rdata hs e
  | addr k | reg k | wdata d | addr2 k => exact .of_sends (by simp only [Channel.sends, hs]; rfl) e

/-- No tick clears `err` (41_transaction_engine.md R168). -/
theorem Channel.Ticked.err (h : x.Ticked c y) (he : x.te.err = true) : y.te.err = true := by
  cases h with
  | called _ _ ht _ => rw [ht, he]
  | wrote hs hi =>
    change (x.te.err || _) = true
    rw [he, Bool.true_or]
  | idle | start | restart | stop | read => exact he

/-- No body touches the timing sample (R172). -/
theorem Channel.tickBody_keepsTime (e : x.tickBody c = .ok y) :
    y.te.tmax = x.te.tmax ∧ y.te.tid = x.te.tid ∧ y.te.tvalid = x.te.tvalid := by
  have h := x.tickBody_withTime c x.te.tmax x.te.tid x.te.tvalid
  rw [show x.withTime x.te.tmax x.te.tid x.te.tvalid = x from rfl, e] at h
  rw [Except.ok.inj h]
  exact ⟨rfl, rfl, rfl⟩

end Ticked

/-! ## The timing sample (41_transaction_engine.md R172) -/

theorem TransEngine.recordTime_longer {t : TransEngine} {d : Config.TimerWord} (h : t.tmax < d) (st : TState) :
    t.recordTime st d = { t with tmax := d, tid := st, tvalid := true } := by
  simp [TransEngine.recordTime, TransEngine.exceeds, h]

theorem TransEngine.recordTime_notLonger {t : TransEngine} {d : Config.TimerWord} (h : ¬ t.tmax < d)
    (st : TState) : t.recordTime st d = t := by
  simp [TransEngine.recordTime, TransEngine.exceeds, h]

/-- Settles O29: the body leaves the sample alone, and the tick records its time beside it. -/
theorem ttickRecordsTime : Obligations.TtickRecordsTime := by
  intro c s t _ e hf
  obtain ⟨y, body, rfl⟩ := exec_ttick_inv c s t e hf
  obtain ⟨tmax, tid, tvalid⟩ := Channel.tickBody_keepsTime body
  rw [State.chan_respond, State.chan_ticked, ← tmax, ← tid, ← tvalid]
  refine ⟨fun longer => ?_, fun notLonger => ?_, rfl⟩
  · rw [TransEngine.recordTime_longer (d := s.tickTime) longer]
    exact ⟨rfl, rfl, rfl⟩
  · rw [TransEngine.recordTime_notLonger (d := s.tickTime) notLonger]
    exact ⟨rfl, rfl, rfl⟩

/-! ## The end of a byte (41_transaction_engine.md R168, R170) -/

/-- The end of a written byte: the ACK bit b is the next listed answer, or the oracle's (40_bit_engine.md R135);
a NACK that stops the transaction leads to its stop (41_transaction_engine.md R168). -/
theorem Channel.byteEnd_spec (x : Channel) (c : Chan) (k : Kind) (next : TState) (stop : Bool) :
    ∃ b n, (∀ a rest, x.ld.answers = a :: rest → b = a) ∧
      (x.byteEnd c k next stop).ld = { x.ld with
        sda := .released
        scl := .drivenLow
        trace := x.ld.trace ++ .release .sda :: takeBitEvents b
        answers := x.ld.answers.tail
        samples := n } ∧
      (x.byteEnd c k next stop).be = { x.be with ackr := !b, mode := .idle } ∧
      (x.byteEnd c k next stop).te.st = (if b && stop then .stop k else next) ∧
      (x.byteEnd c k next stop).te.ack = !b ∧ (x.byteEnd c k next stop).te.err = (x.te.err || b) ∧
      ((∃ r, x.te.st = .addr2 r) → b = false → (x.byteEnd c k next stop).te.acc = 0) ∧
      ((∀ r, x.te.st ≠ .addr2 r) ∨ (b && stop) = true → (x.byteEnd c k next stop).te.acc = x.te.acc) := by
  obtain ⟨b, n, listed, e⟩ := x.writeAck_spec c
  refine ⟨b, n, listed, ?_⟩
  simp only [Channel.byteEnd, e, TransEngine.byteWritten, movedOn, Bool.not_not]
  refine ⟨trivial, trivial, trivial, trivial, trivial, ?_, ?_⟩
  · rintro ⟨r, hr⟩ rfl
    rw [hr]
    rfl
  · rintro (other | nack)
    · split
      · exact absurd ‹_› (other _)
      · rfl
    · obtain ⟨rfl, rfl⟩ := Bool.and_eq_true_iff.1 nack
      split <;> rfl

/-- A state that the next-state table knows writes a byte. -/
theorem Channel.sends_isSome_of_next {c : Chan} {x : Channel} {yes : TState}
    (h : nextWithAck x.te.st = some yes) : (x.sends c).isSome = true := by
  unfold Channel.sends
  cases hs : x.te.st with
  | addr k | reg k | wdata d | addr2 k => rfl
  | _ => rw [hs] at h; cases h

/-- TickBody goes where the next-state table says, with ACK and with NACK (R168, R171). -/
theorem Channel.next_of_sends {c : Chan} {x : Channel} {k : Kind} {v : Byte} {next : TState} {stop : Bool}
    (h : x.sends c = some (k, v, next, stop)) :
    nextWithAck x.te.st = some next ∧ nextWithNack x.te.st = some (if stop then .stop k else next) := by
  unfold Channel.sends at h
  split at h <;> cases h <;> simp only [*]
  · exact ⟨rfl, rfl⟩
  · exact ⟨by cases k with | write k | read k => cases k <;> rfl, rfl⟩
  · rename_i d _
    cases d with
    | w8d0 | w16d1 => exact ⟨rfl, rfl⟩
    | w16d0 =>
      refine ⟨rfl, ?_⟩
      cases hn : Config.nackMidWrite <;> simp [nextWithNack, stopOnNack, hn, wdataKind, afterWdata]
  · rename_i k _
    exact ⟨by cases k <;> rfl, rfl⟩

/-- Settles O27: no tick clears `err`; the end of a written byte, by its ACK bit; the end of a read byte. -/
theorem nackHandling : Obligations.NackHandling := by
  refine ⟨fun c s t e he => ?_, fun c s hi => ⟨fun yes no hyes hno hm => ?_, fun d hs hm => ?_⟩⟩
  · cases body : (s.chan c).tickBody c with
    | ok y =>
      rw [exec_ttick_ok c s body] at e
      cases e
      rw [State.chan_respond, State.chan_ticked]
      exact (Channel.tickBody_ticked body).err he
    | error f =>
      simp only [exec, execTtick, tick_error c s body] at e
      cases e
      exact he
  · obtain ⟨⟨k, v, next, stop⟩, hs⟩ :=
      Option.isSome_iff_exists.1 (Channel.sends_isSome_of_next (c := c) hyes)
    obtain ⟨ack, nack⟩ := Channel.next_of_sends hs
    obtain rfl : next = yes := Option.some.inj (ack.symm.trans hyes)
    obtain rfl : (if stop then .stop k else next) = no := Option.some.inj (nack.symm.trans hno)
    have body := Channel.tickBody_byteEnd hs hm hi
    obtain ⟨b, n, listed, hld, hbe, hst, hack, herr, cleared, kept⟩ := (s.chan c).byteEnd_spec c k next stop
    have busy : ((s.chan c).byteEnd c k next stop).te.st ≠ .idle := by
      rw [hst]
      split
      · nofun
      · exact Channel.next_ne_idle_of_sends hs
    obtain ⟨t, e, resp, ld, be, st, ⟨reg, wval, acc, val, vvalid, ack, err⟩, frame⟩ := exec_ttick_busy body busy
    refine ⟨b, t, e, resp, listed, ?_, ?_, ?_, be.trans hbe, ?_, ack.trans hack, err.trans herr, reg, wval, val,
      vvalid, fun hr hb => acc.trans (cleared hr hb), fun h => acc.trans (kept ?_), frame⟩
    · rw [ld, hld]
    · rw [ld, hld]
    · rw [ld, hld]
    · rw [st, hst]
      cases b <;> cases stop <;> rfl
    · obtain other | rfl := h
      · exact .inl other
      · by_cases hr : ∃ r, (s.chan c).te.st = .addr2 r
        · obtain ⟨r, hr⟩ := hr
          cases hs.symm.trans (Channel.sends_addr2 hr)
          exact .inr rfl
        · exact .inl (not_exists.1 hr)
  · have busy : afterRdata d ≠ .idle := by cases d <;> nofun
    obtain ⟨t, e, -, -, -, -, ⟨-, -, -, -, -, ack, err⟩, -⟩ :=
      exec_ttick_busy (Channel.tickBody_readEnd hs hm hi) busy
    exact ⟨t, e, ack, err⟩

theorem finalByte_eq (d : RData) : finalByte d = lastByte d := by cases d <;> rfl

theorem nextRead_eq (d : RData) : nextRead d = afterRdata d := by cases d <;> rfl

/-- Settles O28: the ACK phase of the byte read, and what ReadStep makes of the byte. -/
theorem readByteEnds : Obligations.ReadByteEnds := by
  intro c s d hs hm hi
  have busy : afterRdata d ≠ .idle := by cases d <;> nofun
  have body := Channel.tickBody_readEnd (c := c) hs hm hi
  rw [Channel.readAck_eq] at body
  obtain ⟨t, e, resp, ld, be, st, ⟨reg, wval, acc, val, vvalid, ack, err⟩, frame⟩ := exec_ttick_busy body busy
  rw [nextRead_eq, finalByte_eq]
  refine ⟨t, e, resp, ld, be, st, ?_, ?_, vvalid, reg, wval, ack, err, frame⟩
  · rw [acc]
    exact shiftIn_toNat _ _
  · rw [val, acc]
    rfl

end Sys2Proof.Machine

namespace Sys2Proof.Machine

/-! ## How many ticks a transaction still takes (41_transaction_engine.md R173, R174) -/

/-- The ticks after the register byte where every byte is acknowledged: the data bytes and the stop of a write;
the restart, the read address, the data bytes and the stop of a read. -/
def ticksAfterReg : Kind → Nat
  | .write k => 10 * nbytes (.write k) + 1
  | .read k => 1 + 10 + 10 * nbytes (.read k) + 1

/-- The ticks from the begin of a state to Idle where every byte is acknowledged: 1 for a condition, 10 for a
byte (R173). -/
def ticksFrom : TState → Nat
  | .idle => 0
  | .start k => 10 + 10 + ticksAfterReg k + 1
  | .addr k => 10 + 10 + ticksAfterReg k
  | .reg k => 10 + ticksAfterReg k
  | .wdata d => 10 * (nbytes (.write (wdataKind d)) - wdataIndex d) + 1
  | .restart k => 10 + 10 * nbytes (.read k) + 1 + 1
  | .addr2 k => 10 + 10 * nbytes (.read k) + 1
  | .rdata d => 10 * bytesLeft d + 1
  | .stop _ => 1

/-- A Read24 takes longest. -/
theorem ticksFrom_le (st : TState) : ticksFrom st ≤ 63 := by
  cases st with
  | start k | addr k | reg k =>
    cases k with
    | write k | read k => cases k <;> decide
  | wdata d | rdata d => cases d <;> decide
  | restart k | addr2 k => cases k <;> decide
  | idle => decide
  | stop k => exact (by decide : 1 ≤ 63)

theorem ticksFrom_pos {st : TState} (h : st ≠ .idle) : 0 < ticksFrom st := by
  cases st with
  | idle => exact absurd rfl h
  | _ => simp only [ticksFrom]; omega

/-- The states after which the transaction writes no byte, so that no NACK can end it early. -/
def allWritten : TState → Bool
  | .idle => true
  | .start _ => false
  | .addr _ => false
  | .reg _ => false
  | .wdata _ => false
  | .restart _ => false
  | .addr2 _ => false
  | .rdata _ => true
  | .stop _ => true

/-- The ticks a channel still needs where every byte is acknowledged. -/
def Channel.ticksLeft (x : Channel) : Nat := ticksFrom x.te.st - x.callsMade

section Left
variable {c : Chan} {x y : Channel}

theorem Channel.ticksLeft_of_ready (hm : x.be.mode = .idle) : x.ticksLeft = ticksFrom x.te.st := by
  rw [Channel.ticksLeft, Channel.callsMade, if_pos hm, Nat.sub_zero]

theorem Channel.ticksLeft_condition (hm : x.be.mode = .idle) (l : LineDriver) (next : TState) :
    (x.condition l next).ticksLeft = ticksFrom next := Channel.ticksLeft_of_ready (x := x.condition l next) hm

/-- A written byte takes ten ticks and leads to `next`. -/
theorem Channel.ticksFrom_of_sends {k : Kind} {v : Byte} {next : TState} {stop : Bool}
    (h : x.sends c = some (k, v, next, stop)) :
    ticksFrom x.te.st = ticksFrom next + 10 ∧ allWritten x.te.st = false := by
  unfold Channel.sends at h
  split at h <;> cases h <;> simp only [*]
  · exact ⟨by simp only [ticksFrom]; omega, rfl⟩
  · exact ⟨by cases k with | write k | read k => cases k <;> rfl, rfl⟩
  · rename_i d _
    exact ⟨by cases d <;> rfl, rfl⟩
  · rename_i k _
    exact ⟨by cases k <;> rfl, rfl⟩

/-- A read byte takes ten ticks. -/
theorem ticksFrom_rdata (d : RData) : ticksFrom (.rdata d) = ticksFrom (afterRdata d) + 10 := by
  cases d <;> rfl

/-- A state in the middle of a byte has more ticks left than a byte has calls. -/
theorem Channel.ten_lt_ticksFrom (h : (x.sends c).isSome = true ∨ ∃ d, x.te.st = .rdata d) :
    10 < ticksFrom x.te.st := by
  obtain h | ⟨d, hd⟩ := h
  · obtain ⟨⟨k, v, next, stop⟩, hs⟩ := Option.isSome_iff_exists.1 h
    have pos := ticksFrom_pos (Channel.next_ne_idle_of_sends hs)
    have ten := (Channel.ticksFrom_of_sends hs).1
    omega
  · have pos : 0 < ticksFrom (afterRdata d) := ticksFrom_pos (by cases d <;> nofun)
    rw [hd, ticksFrom_rdata]
    omega

/-- Every tick brings the channel one nearer to Idle, or much nearer by a NACK on a byte still to write. -/
theorem Channel.Ticked.ticksLeft (h : x.Ticked c y) (hc : x.coherent = true) (hs : x.te.st ≠ .idle) :
    x.ticksLeft = y.ticksLeft + 1 ∨ (allWritten x.te.st = false ∧ y.ticksLeft < x.ticksLeft) := by
  cases h with
  | idle h => exact absurd h hs
  | start h | restart h | stop h =>
    have hm : x.be.mode = .idle := by simpa [Channel.coherent, h] using hc
    rw [Channel.ticksLeft_of_ready hm, Channel.ticksLeft_condition hm, h]
    exact .inl rfl
  | called h hi ht hc =>
    have more := Channel.ten_lt_ticksFrom h
    rw [Channel.ticksLeft, Channel.ticksLeft, ht, hc]
    omega
  | @wrote k v next stop h hi =>
    obtain ⟨ten, unwritten⟩ := Channel.ticksFrom_of_sends h
    have pos := ticksFrom_pos (Channel.next_ne_idle_of_sends h)
    have nearer : ticksFrom (x.byteEnd c k next stop).te.st ≤ ticksFrom next := by
      obtain ⟨b, -, -, -, -, st, -⟩ := x.byteEnd_spec c k next stop
      rw [st]
      split
      · exact pos
      · exact Nat.le_refl _
    rw [Channel.ticksLeft_of_ready (x := x.byteEnd c k next stop) rfl, Channel.ticksLeft, hi, ten]
    exact .inr ⟨unwritten, by omega⟩
  | @read d h hi =>
    rw [Channel.ticksLeft, hi, h, ticksFrom_rdata, Channel.ticksLeft_of_ready rfl]
    exact .inl rfl

theorem Channel.Ticked.allWritten (h : x.Ticked c y) (hw : allWritten x.te.st = true) :
    allWritten y.te.st = true := by
  cases h with
  | idle => exact hw
  | start h | restart h => rw [h] at hw; cases hw
  | stop => rfl
  | called _ _ ht => rw [ht, hw]
  | wrote h => rw [(Channel.ticksFrom_of_sends h).2] at hw; cases hw
  | @read d => cases d <;> rfl

/-- Only a stop condition ends a transaction. -/
theorem Channel.Ticked.released (h : x.Ticked c y) (hs : x.te.st ≠ .idle) (hy : y.te.st = .idle) :
    y.ld.sda = .released ∧ y.ld.scl = .released := by
  cases h with
  | idle h => exact absurd h hs
  | start | restart => cases hy
  | stop => simp only [Channel.condition, LineDriver.stopCond_eq, and_self]
  | called _ _ ht => exact absurd (ht ▸ hy) hs
  | @wrote k v next stop h =>
    obtain ⟨b, -, -, -, -, st, -⟩ := x.byteEnd_spec c k next stop
    rw [st] at hy
    split at hy
    · cases hy
    · exact absurd hy (Channel.next_ne_idle_of_sends h)
  | @read d => cases d <;> cases hy

/-- A tick keeps the channel coherent (10_state.md R51). -/
theorem Channel.coherent_tickBody (hc : x.coherent = true) (e : x.tickBody c = .ok y) : y.coherent = true := by
  obtain hm | ⟨-, hy⟩ := Channel.tickBody_midByte hc e
  · exact Channel.coherent_of_idle hm
  · exact hy

end Left

/-- A transaction in progress runs to Idle, in at most the ticks it has left, and in exactly those where no byte
is to be acknowledged any more (R174). -/
theorem Channel.Runs.toIdle {c : Chan} {x : Channel} (hc : x.coherent = true) (hs : x.te.st ≠ .idle) :
    ∃ n y, Channel.Runs c n x y ∧ 0 < n ∧ n ≤ x.ticksLeft ∧ (allWritten x.te.st = true → n = x.ticksLeft) ∧
      y.te.st = .idle ∧ y.ld.sda = .released ∧ y.ld.scl = .released := by
  obtain ⟨y, e⟩ := x.tickBody_ok c hc
  have ticked := Channel.tickBody_ticked e
  have nearer : y.ticksLeft < x.ticksLeft := by
    obtain h | ⟨-, h⟩ := ticked.ticksLeft hc hs
    · omega
    · exact h
  have one : allWritten x.te.st = true → x.ticksLeft = y.ticksLeft + 1 := fun hw =>
    (ticked.ticksLeft hc hs).resolve_right fun h => by rw [hw] at h; cases h.1
  by_cases hy : y.te.st = .idle
  · have none : y.ticksLeft = 0 := by rw [Channel.ticksLeft, hy]; exact Nat.zero_sub _
    refine ⟨1, y, .one e hs, Nat.one_pos, by omega, fun hw => ?_, hy, ticked.released hs hy⟩
    rw [one hw, none]
  · obtain ⟨n, z, run, -, le, exactly, idle⟩ := Channel.Runs.toIdle (Channel.coherent_tickBody hc e) hy
    refine ⟨1 + n, z, (Channel.Runs.one e hs).append run, by omega, by omega, fun hw => ?_, idle⟩
    rw [one hw, exactly (ticked.allWritten hw), Nat.add_comm]
termination_by x.ticksLeft

/-- Settles O31: every tick brings the transaction nearer to its stop, and no state is further than 63 ticks. -/
theorem transactionTerminates : Obligations.TransactionTerminates := by
  intro c s hc hs
  obtain ⟨n, y, run, pos, le, -, idle, sda, scl⟩ := Channel.Runs.toIdle hc hs
  obtain ⟨t, m, i, v, done, chan, other, -, fault⟩ := run.done pos idle
  have bound : n ≤ 63 := le.trans ((Nat.sub_le _ _).trans (ticksFrom_le _))
  refine ⟨n, t, bound, done, ?_, ?_, ?_, fault, other⟩ <;> rw [chan]
  · exact idle
  · exact sda
  · exact scl

/-! ## The tick counts (41_transaction_engine.md R173) -/

/-- A read whose written bytes are all acknowledged, whatever bits its data bytes have. -/
theorem Channel.Runs.acknowledgedRead {c : Chan} {x : Channel} {k : RKind} {rest : List Bool}
    (hs : x.te.st = .start (.read k)) (hm : x.be.mode = .idle)
    (ha : x.ld.answers = false :: false :: false :: rest) :
    ∃ y, Channel.Runs c (33 + 10 * nbytes (.read k)) x y ∧ y.te.st = .idle := by
  obtain ⟨y, sent, st, -⟩ := Channel.sent_readAddress (c := c) hs hm ha
  have st : y.te.st = .rdata (rdataFirst k) := st
  obtain ⟨n, z, run, -, -, exactly, idle, -⟩ := Channel.Runs.toIdle (c := c)
    (Channel.coherent_of_idle sent.mode) (by rw [st]; nofun)
  have ticks : n = 10 * nbytes (.read k) + 1 := by
    rw [exactly (by rw [st]; rfl), Channel.ticksLeft_of_ready sent.mode, st]
    cases k <;> rfl
  subst ticks
  have run := sent.runs.append run
  rw [show 32 + (10 * nbytes (.read k) + 1) = 33 + 10 * nbytes (.read k) by omega] at run
  exact ⟨z, run, idle⟩

/-- Settles O30: the written bytes up to the stop for a write or a NACK, and the whole read otherwise. -/
theorem tickCounts : Obligations.TickCounts := by
  intro c s k hs hm n rest last h
  have stopped : ∀ {m : Nat} {y : Channel} {j : Kind}, Channel.Runs c m (s.chan c) y → y.te.st = .stop j →
      ∃ t, DoneAfter c (m + 1) s t := fun run st => (run.finish st).imp fun _ h => h.1
  have acknowledged : ∀ {r : RKind}, (s.chan c).ld.answers = false :: false :: false :: rest → k = .read r →
      ∃ t, DoneAfter c (33 + 10 * nbytes (.read r)) s t := by
    rintro r ha rfl
    obtain ⟨y, run, idle⟩ := Channel.Runs.acknowledgedRead hs hm ha
    obtain ⟨t, -, -, -, done, -⟩ := run.done (by omega) idle
    exact ⟨t, done⟩
  obtain ⟨ha, rfl⟩ | ⟨ha, rfl⟩ | ⟨ha, ⟨r, rfl⟩, rfl⟩ | ⟨ha, rfl, rfl⟩ | ⟨ha, rfl, rfl⟩ | ⟨ha, rfl, rfl⟩ |
    ⟨ha, hk, rfl⟩ | ⟨ha, hk, rfl⟩ | ⟨ha, hk, rfl⟩ := h
  · obtain ⟨y, sent, st⟩ := Channel.sent_address (c := c) hs hm ha
    exact stopped sent.runs st
  · obtain ⟨y, sent, st⟩ := Channel.sent_register (c := c) hs hm ha
    exact stopped sent.runs st
  · obtain ⟨y, sent, st, -⟩ := Channel.sent_readAddress (c := c) hs hm ha
    exact stopped sent.runs st
  · obtain ⟨y, sent, st⟩ := Channel.sent_firstData (c := c) hs hm ha
    exact stopped sent.runs (st.trans (ite_self _))
  · obtain ⟨y, sent, st⟩ := Channel.sent_secondData (c := c) hs hm ha rfl
    exact stopped sent.runs st
  · cases hn : Config.nackMidWrite with
    | shortCircuit => exact (Channel.nacked_firstData hs hm hn ha).finish.imp fun _ h => h.1
    | continueOn => exact (Channel.nacked_secondData hs hm hn ha).finish.imp fun _ h => h.1
  · exact acknowledged ha hk
  · exact acknowledged ha hk
  · exact acknowledged ha hk

end Sys2Proof.Machine

namespace Sys2Proof.Machine

/-! ## Who may touch a transaction in progress (40_bit_engine.md R139, 41_transaction_engine.md R174) -/

section Owned
variable {c : Chan} {s t : State}

/-- A command behind the ownership guard changes no channel while the TransactionEngine owns its own. -/
theorem guarded_chans {α : Type} {k : Unit → State → Ran α} {g : α → Response}
    (hs : (s.chan c).te.st ≠ .idle) (e : ((guardOwner c s).bind k).outcome g = .next t) :
    t.chans = s.chans := by
  rw [guardOwner_eq, if_neg hs] at e
  cases e
  rfl

/-- A request on a busy channel changes no channel (R165). -/
theorem busyRequest_chans {k : Option Kind} {reg : Byte} {value : BitVec 16} (hs : (s.chan c).te.st ≠ .idle)
    (e : (request c k reg value s).outcome .bool = .next t) : t.chans = s.chans := by
  rw [request_busBusy hs] at e
  cases e
  rfl

/-- No command that drives a busy channel gets through, but a tick. -/
theorem exec_driven_chans {i : Instr} (hc : channelOf i = some c) (hd : hostDrives i = true)
    (hi : i ≠ .ttick c) (hs : (s.chan c).te.st ≠ .idle) (e : exec i s = .next t) : t.chans = s.chans := by
  cases i with
  | bstart | bstop | bwrite | bread | brecover | trecover => cases hc; exact guarded_chans hs e
  | treqwr | treqrd => cases hc; exact busyRequest_chans hs e
  | ttick => cases hc; exact absurd rfl hi
  | _ => cases hd

theorem hostDrives_eq_false {i : Instr} (h : channelOf i = none) : hostDrives i = false := by
  cases i with
  | ssetok | stick | siserr | stimings | sstats | sdur | ssetup => rfl
  | _ => cases h

/-- SSETUP stops at its first guard that finds a transaction (60_exceptions.md R274). -/
theorem exec_ssetup_owned (hs : (s.chan c).te.st ≠ .idle) :
    exec .ssetup s = .next (s.raise .channelOwned) := by
  have stopped : setupBegin s = .raised .channelOwned s := by
    by_cases h0 : (s.chan .ch0).te.st = .idle
    · have h1 : (s.chan .ch1).te.st ≠ .idle := by
        cases c with
        | ch0 => exact absurd h0 hs
        | ch1 => exact hs
      simp only [setupBegin, guardOwner_eq, if_pos h0, if_neg h1, Ran.bind_done, Ran.bind_raised]
    · simp only [setupBegin, guardOwner_eq, if_neg h0, Ran.bind_raised]
  simp only [exec, execSsetup, stopped]

end Owned

/-- A query leaves all but the timing sample (41_transaction_engine.md R180). -/
theorem Channel.Queried.unmoved {x y : Channel} (h : x.Queried y) :
    y.ld = x.ld ∧ y.be = x.be ∧ y.te.st = x.te.st ∧ SameRegisters y.te x.te := by
  cases h with
  | kept | retimed => exact ⟨rfl, rfl, rfl, rfl, rfl, rfl, rfl, rfl, rfl, rfl⟩

/-- Settles O34: SSETUP and what drives the channel are refused, a query leaves all but the timing sample, and a
command of the other channel leaves this one. -/
theorem onlyTicksMoveATransaction : Obligations.OnlyTicksMoveATransaction := by
  intro i c s t hi hstick hs e
  suffices queried : (s.chan c).Queried (t.chan c) from queried.unmoved
  have kept : t.chan c = s.chan c → (s.chan c).Queried (t.chan c) := fun h => h ▸ .kept
  by_cases hsetup : i = .ssetup
  · subst hsetup
    cases (exec_ssetup_owned hs).symm.trans e
    exact .kept
  · cases hd : hostDrives i with
    | false => exact (exec_queried hd hstick hsetup e).chans c
    | true =>
      cases hc : channelOf i with
      | none => cases hd.symm.trans (hostDrives_eq_false hc)
      | some d =>
        by_cases hdc : c = d
        · subst hdc
          exact kept (State.chan_eq_of_chans (exec_driven_chans hc hd hi hs e) c)
        · exact kept (channelsAreIndependent i d c s t (s.chan c) hc hdc e).1

end Sys2Proof.Machine

namespace Sys2Proof.Machine

/-! ## The step of a STICK with no host byte unfinished (42_acquisition_sequencer.md R220 to R226) -/

/-- The channel after a request of the sequencer's: accepted where it is idle, ignored where it is busy (R220). -/
def Channel.asked (x : Channel) (k : Kind) (reg : Byte) (v : BitVec 16) : Channel :=
  if x.te.st = .idle then requested x k reg (if isWrite k then v else x.te.wval) else x

/-- Both channels after the requests of a step. -/
def State.askBoth (s : State) (reg : Byte) (v : PerChan (BitVec 16)) (k : Kind) : State :=
  { s with chans :=
      { ch0 := (s.chan .ch0).asked k reg v.ch0, ch1 := (s.chan .ch1).asked k reg v.ch1 } }

section Asked
variable {x : Channel} {k : Kind} {reg : Byte} {v : BitVec 16}

theorem Channel.asked_idle (h : x.te.st = .idle) :
    x.asked k reg v = requested x k reg (if isWrite k then v else x.te.wval) := if_pos h

theorem Channel.asked_busy (h : x.te.st ≠ .idle) : x.asked k reg v = x := if_neg h

@[simp] theorem State.chan_askBoth (s : State) (reg : Byte) (v : PerChan (BitVec 16)) (k : Kind) (c : Chan) :
    (s.askBoth reg v k).chan c = (s.chan c).asked k reg (v.get c) := by cases c <;> rfl

/-- A request on a channel with no host byte unfinished does not fault (60_exceptions.md R273). -/
theorem request_settled {c : Chan} {s : State} (h : (s.chan c).te.st = .idle → (s.chan c).be.mode = .idle) :
    ∃ b, request c (some k) reg v s = .done b (s.setChan c ((s.chan c).asked k reg v)) := by
  by_cases hs : (s.chan c).te.st = .idle
  · exact ⟨true, by rw [request_accepted c k reg v s hs (h hs), Channel.asked_idle hs]; rfl⟩
  · exact ⟨false, by rw [request_busBusy hs, Channel.asked_busy hs, State.setChan_chan]⟩

end Asked

section Unasked
variable {s : State} {v : PerChan (BitVec 24)} {n : Nat}

/-- An answer not busy on both channels asks for nothing, whatever the BitEngines are doing (R224). -/
theorem seqStep3_over (hp : s.sq.poll = true)
    (e : s.lastValues = (v, { s with draws := n })) (hb : (busy v.ch0 || busy v.ch1) = false) :
    seqStep3 true false s = .done () ((State.setPoll { s with draws := n } false).setStep .s4) := by
  simp only [seqStep3, hp, e, hb]
  rfl

/-- Step 5 stores what `LastValue` answers (R226). -/
theorem seqStep5_stores (e : s.lastValues = (v, { s with draws := n })) :
    seqStep5 true false s = .done ()
      ((((State.storeReadings { s with draws := n } v).readTimer).recordCycle (s.now - s.sq.t0)).setStep .s0) := by
  simp only [seqStep5, e]
  rfl

/-- Steps 1 to 5 wait, restart or go on; where going on completes, all do (R220, R228, R229). -/
theorem done_waiting {idle bad : Bool} {u : State} {r : Ran Unit} (hr : ∃ t, r = .done () t) :
    ∃ t, (if !idle then .done () s else if bad then .done () u else r) = .done () t := by
  split
  · exact ⟨s, rfl⟩
  · split
    · exact ⟨u, rfl⟩
    · exact hr

end Unasked

section Requests
variable {s : State} {v : PerChan (BitVec 24)} {n : Nat}
  (h : ∀ c, (s.chan c).te.st = .idle → (s.chan c).be.mode = .idle)
include h

theorem bothWrite_settled (reg : Byte) (w : PerChan (BitVec 16)) (k : Kind) :
    bothWrite reg w k s = .done () (s.askBoth reg w k) := by
  obtain ⟨b0, e0⟩ := request_settled (k := k) (reg := reg) (v := w.ch0) (h .ch0)
  obtain ⟨b1, e1⟩ := request_settled (c := .ch1) (k := k) (reg := reg) (v := w.ch1)
    (s := s.setChan .ch0 ((s.chan .ch0).asked k reg w.ch0)) (h .ch1)
  rw [bothWrite, e0, Ran.bind_done, e1]
  rfl

theorem bothRead_settled (reg : Byte) (k : Kind) :
    bothRead reg k s = .done () (s.askBoth reg { ch0 := 0, ch1 := 0 } k) :=
  bothWrite_settled h reg { ch0 := 0, ch1 := 0 } k

/-- Step 0 does not wait, and asks the channels that are idle (R221). The steps below go on with both channels idle
and error-free. -/
theorem seqStep0_settled : seqStep0 s = .done ()
    ((s.cycleBegun.askBoth Config.regStatus { ch0 := 0, ch1 := 0 } Config.statusReadKind).setStep .s1) := by
  rw [seqStep0_eq, bothRead_settled (s := s.cycleBegun) h, Ran.bind_done]

theorem seqStep1_settled (e : s.lastValues = (v, { s with draws := n })) :
    seqStep1 true false s = .done ()
      ((State.askBoth { s with draws := n } Config.regStatus
        { ch0 := maskStatus v.ch0, ch1 := maskStatus v.ch1 } Config.statusWriteKind).setStep .s2) := by
  simp only [seqStep1, e, bothWrite_settled (s := { s with draws := n }) h]
  rfl

theorem seqStep2_settled : seqStep2 true false s = .done ()
    ((s.askBoth Config.regCmd { ch0 := Config.trigger.setWidth 16, ch1 := Config.trigger.setWidth 16 }
      Config.cmdWriteKind).setStep .s3) := by
  simp only [seqStep2, bothWrite_settled h]
  rfl

theorem seqStep3_first (hp : s.sq.poll = false) : seqStep3 true false s = .done ()
    ((s.askBoth Config.regCmd { ch0 := 0, ch1 := 0 } Config.cmdReadKind).setPoll true) := by
  simp only [seqStep3, hp, bothRead_settled h]
  rfl

theorem seqStep3_again (hp : s.sq.poll = true) (e : s.lastValues = (v, { s with draws := n }))
    (hb : (busy v.ch0 || busy v.ch1) = true) :
    seqStep3 true false s = .done ()
      (State.askBoth { s with draws := n } Config.regCmd { ch0 := 0, ch1 := 0 } Config.cmdReadKind) := by
  simp only [seqStep3, hp, e, hb, bothRead_settled (s := { s with draws := n }) h]
  rfl

theorem seqStep4_settled : seqStep4 true false s = .done ()
    ((s.askBoth Config.regResult { ch0 := 0, ch1 := 0 } Config.resultReadKind).setStep .s5) := by
  simp only [seqStep4, bothRead_settled h]
  rfl

theorem seqStep3_completes : ∃ t, seqStep3 true false s = .done () t := by
  obtain ⟨v, n, e, -⟩ := lastValues_spec s
  cases hp : s.sq.poll with
  | false => exact ⟨_, seqStep3_first h hp⟩
  | true =>
    cases hb : busy v.ch0 || busy v.ch1 with
    | true => exact ⟨_, seqStep3_again h hp e hb⟩
    | false => exact ⟨_, seqStep3_over hp e hb⟩

/-- With no host byte unfinished the step of a STICK completes (60_exceptions.md R277). -/
theorem seqBody_completes (idle bad : Bool) : ∃ t, seqBody idle bad s = .done () t := by
  obtain ⟨v, n, e, -⟩ := lastValues_spec s
  unfold seqBody
  split
  · exact ⟨_, seqStep0_settled h⟩
  · exact done_waiting ⟨_, seqStep1_settled h e⟩
  · exact done_waiting ⟨_, seqStep2_settled h⟩
  · exact done_waiting (seqStep3_completes h)
  · exact done_waiting ⟨_, seqStep4_settled h⟩
  · exact done_waiting ⟨_, seqStep5_stores e⟩

end Requests

end Sys2Proof.Machine

namespace Sys2Proof.Machine

/-! ## What the step of a STICK leaves alone, whether or not it completes (R220) -/

/-- From s to t no bus event was made, no byte moved, no fault or response recorded and no word run. -/
structure State.Quiet (s t : State) : Prop where
  wires : ∀ c, (t.chan c).ld = (s.chan c).ld ∧ (t.chan c).be = (s.chan c).be
  fault : t.fault = s.fault
  resp : t.resp = s.resp
  cmds : t.cmds = s.cmds

section Quiet
variable {s t u : State}

theorem State.Quiet.of_chans_eq (hc : t.chans = s.chans) (hf : t.fault = s.fault) (hr : t.resp = s.resp)
    (hm : t.cmds = s.cmds) : s.Quiet t :=
  ⟨fun c => by rw [State.chan_eq_of_chans hc]; exact ⟨rfl, rfl⟩, hf, hr, hm⟩

theorem State.Quiet.refl (s : State) : s.Quiet s := .of_chans_eq rfl rfl rfl rfl

theorem State.Quiet.trans (h : s.Quiet t) (h' : t.Quiet u) : s.Quiet u where
  wires c := ⟨(h'.wires c).1.trans (h.wires c).1, (h'.wires c).2.trans (h.wires c).2⟩
  fault := h'.fault.trans h.fault
  resp := h'.resp.trans h.resp
  cmds := h'.cmds.trans h.cmds

/-- Pseudocode that is quiet whatever state it runs from, after quiet pseudocode. -/
theorem ends_bind_quiet {α β : Type} {r : Ran α} {k : α → State → Ran β} (h : r.Ends s.Quiet)
    (hk : ∀ a u, (k a u).Ends u.Quiet) : (r.bind k).Ends s.Quiet :=
  Ran.Ends.bind h (fun _ => id) fun a u hu => (hk a u).mono fun _ => hu.trans

/-- A request writes TransactionEngine fields only (41_transaction_engine.md R165). -/
theorem request_quiet (c : Chan) (k : Option Kind) (reg : Byte) (v : BitVec 16) (s : State) :
    (request c k reg v s).Ends s.Quiet := by
  obtain ⟨-, e⟩ | ⟨-, -, e⟩ | ⟨-, -, -, e⟩ | ⟨-, -, j, -, e⟩ := request_cases c k reg v s <;> rw [e]
  · exact .refl s
  · exact .refl s
  · exact .refl s
  · refine ⟨fun d => ?_, rfl, rfl, rfl⟩
    by_cases hd : d = c
    · subst hd; rw [State.chan_setChan]; exact ⟨rfl, rfl⟩
    · rw [State.chan_setChan_ne s _ hd]; exact ⟨rfl, rfl⟩

theorem bothWrite_quiet (reg : Byte) (v : PerChan (BitVec 16)) (k : Kind) (s : State) :
    (bothWrite reg v k s).Ends s.Quiet :=
  ends_bind_quiet (request_quiet ..) fun _ _ => ends_bind_quiet (request_quiet ..) fun _ => .refl

theorem bothRead_quiet (reg : Byte) (k : Kind) (s : State) : (bothRead reg k s).Ends s.Quiet :=
  bothWrite_quiet reg { ch0 := 0, ch1 := 0 } k s

/-- Requests made in u, and then the write f of the sequencer. -/
theorem ends_requests_quiet {r : Ran Unit} {f : State → State} (hu : s.Quiet u) (hr : r.Ends u.Quiet)
    (hf : ∀ t : State, t.Quiet (f t)) : (r.bind fun _ t => .done () (f t)).Ends s.Quiet :=
  ends_bind_quiet (hr.mono fun _ => hu.trans) fun _ t => hf t

/-- Steps 1 to 5 wait, restart or go on (R220, R228, R229). -/
theorem ends_waiting_quiet {idle bad : Bool} {r : Ran Unit} (hu : s.Quiet u) (hr : r.Ends s.Quiet) :
    (if !idle then .done () s else if bad then .done () u else r).Ends s.Quiet := by
  split
  · exact .refl s
  · split
    · exact hu
    · exact hr

end Quiet

theorem seqBody_quiet (idle bad : Bool) (s : State) : (seqBody idle bad s).Ends s.Quiet := by
  have same : ∀ {t u : State}, u.chans = t.chans → u.fault = t.fault → u.resp = t.resp → u.cmds = t.cmds →
      t.Quiet u := State.Quiet.of_chans_eq
  unfold seqBody
  split
  · rw [seqStep0_eq]
    exact ends_requests_quiet (u := s.cycleBegun) (same rfl rfl rfl rfl) (bothRead_quiet ..)
      fun _ => same rfl rfl rfl rfl
  · exact ends_waiting_quiet (same rfl rfl rfl rfl)
      (ends_requests_quiet (u := s.lastValues.2) (same rfl rfl rfl rfl) (bothWrite_quiet ..)
        fun _ => same rfl rfl rfl rfl)
  · exact ends_waiting_quiet (same rfl rfl rfl rfl)
      (ends_requests_quiet (.refl s) (bothWrite_quiet ..) fun _ => same rfl rfl rfl rfl)
  · refine ends_waiting_quiet (same rfl rfl rfl rfl) ?_
    split
    · exact ends_requests_quiet (.refl s) (bothRead_quiet ..) fun _ => same rfl rfl rfl rfl
    · dsimp only
      split
      · have drawn : s.Quiet s.lastValues.2 := same rfl rfl rfl rfl
        exact (bothRead_quiet ..).mono fun _ => drawn.trans
      · exact same rfl rfl rfl rfl
  · exact ends_waiting_quiet (same rfl rfl rfl rfl)
      (ends_requests_quiet (.refl s) (bothRead_quiet ..) fun _ => same rfl rfl rfl rfl)
  · exact ends_waiting_quiet (same rfl rfl rfl rfl) (same rfl rfl rfl rfl)

/-! ## STICK, by the state its two ticks leave -/

/-- What every tick keeps, the two ticks of a STICK keep. -/
theorem execAll_ticks_keeps {P : State → Prop} (hP : ∀ c v w, P v → exec (.ttick c) v = .next w → P w)
    {s u : State} (h : P s) (e : execAll [.ttick .ch0, .ttick .ch1] s = .next u) : P u := by
  simp only [execAll] at e
  split at e
  · rename_i v first
    split at e
    · rename_i w second
      cases e
      exact hP .ch1 v u (hP .ch0 s v h first) second
    · cases e
    · cases e
  · cases e
  · cases e

/-- A tick leaves a channel coherent and no host byte unfinished (10_state.md R51). -/
theorem exec_ttick_settled {c : Chan} {s t : State} (h : ∀ d, (s.chan d).Settled)
    (e : exec (.ttick c) s = .next t) : ∀ d, (t.chan d).Settled := fun d =>
  (h d).scripted ((State.ByChannel.outcome e (tick_byChannel c s)).chans d)

theorem exec_ttick_cmds {c : Chan} {s t : State} (e : exec (.ttick c) s = .next t) : t.cmds = s.cmds := by
  cases body : (s.chan c).tickBody c with
  | ok y => rw [exec_ttick_ok c s body] at e; cases e; rfl
  | error f => rw [exec, execTtick, tick_error c s body] at e; cases e; rfl

theorem stickStep_done {resp : Option Response} {u t : State}
    (h : seqBody ((u.chan .ch0).free && (u.chan .ch1).free) u.bad { u with resp := resp } = .done () t) :
    stickStep resp u = .next (t.respond (.u3 (seqStepCode t.sq.step))) := by
  rw [stickStep, h]
  rfl

/-- Settles O39: the ticks complete in a coherent state, and the step after them in a settled one; the step makes
requests and writes the sequencer, nothing else. -/
theorem stickCompletes : Obligations.StickCompletes := by
  intro s coherent ready
  obtain ⟨u, ticks, fault, -, e⟩ := exec_stick_coherent s coherent
  have settled : ∀ c, (u.chan c).Settled :=
    execAll_ticks_keeps (fun _ _ _ => exec_ttick_settled) (fun c => ⟨coherent c, ready c⟩) ticks
  have cmds : u.cmds = s.cmds :=
    execAll_ticks_keeps (P := fun v => v.cmds = s.cmds) (fun _ _ _ h e => (exec_ttick_cmds e).trans h) rfl ticks
  obtain ⟨t, body⟩ := seqBody_completes (s := { u with resp := s.resp }) (fun c => (settled c).2)
    ((u.chan .ch0).free && (u.chan .ch1).free) u.bad
  have quiet := seqBody_quiet ((u.chan .ch0).free && (u.chan .ch1).free) u.bad { u with resp := s.resp }
  rw [body] at quiet
  exact ⟨u, _, ticks, fault, e.trans (stickStep_done body), rfl, quiet.wires, quiet.fault.trans fault,
    quiet.cmds.trans cmds⟩

/-- The script's step at a position, which `seqBody` runs. -/
def seqStepAt : SeqStep → Bool → Bool → State → Ran Unit
  | .s0 => fun _ _ => seqStep0
  | .s1 => seqStep1
  | .s2 => seqStep2
  | .s3 => seqStep3
  | .s4 => seqStep4
  | .s5 => seqStep5

theorem seqBody_at {s : State} {n : SeqStep} (step : s.sq.step = n) (idle bad : Bool) :
    seqBody idle bad s = seqStepAt n idle bad s := by
  rw [seqBody, step]
  cases n <;> rfl

section AfterTicks
variable {s u t : State} (ticks : execAll [.ttick .ch0, .ttick .ch1] s = .next u) (fault : u.fault = none)
include ticks fault

/-- Both channels idle: the step runs, and STICK responds the script's step after it. -/
theorem exec_stick_idle (idle : ∀ c, (u.chan c).te.st = .idle)
    (body : seqBody true u.bad { u with resp := s.resp } = .done () t) :
    exec .stick s = .next (t.respond (.u3 (seqStepCode t.sq.step))) := by
  rw [exec_stick_of_ticks s u ticks fault]
  refine stickStep_done ?_
  simpa [Channel.free, idle] using body

/-- Both channels idle and error-free: the step goes on. -/
theorem exec_stick_good (good : ∀ c, (u.chan c).te.st = .idle ∧ (u.chan c).te.err = false) {n : SeqStep}
    (step : u.sq.step = n) (body : seqStepAt n true false { u with resp := s.resp } = .done () t) :
    exec .stick s = .next (t.respond (.u3 (seqStepCode t.sq.step))) := by
  have noError : u.bad = false := by simp [State.bad, good]
  refine exec_stick_idle ticks fault (fun c => (good c).1) ?_
  rw [noError]
  exact (seqBody_at (s := { u with resp := s.resp }) step true false).trans body

end AfterTicks

/-- Settles O46: the step sees a channel not idle and does nothing. -/
theorem stickWaitsForBoth : Obligations.StickWaitsForBoth := by
  intro s u ticks fault step ⟨c, busy⟩
  rw [exec_stick_of_ticks s u ticks fault]
  have waits : ((u.chan .ch0).free && (u.chan .ch1).free) = false := by
    cases c <;> simp [Channel.free, busy]
  exact stickStep_done (t := { u with resp := s.resp }) (by rw [waits]; exact seqBody_waits _ _ step)

/-- Settles O47: the step sees both channels idle and an error, and restarts the script. -/
theorem stickRestartsOnError : Obligations.StickRestartsOnError := by
  intro s u ticks fault step idle ⟨c, err⟩
  have bad : u.bad = true := by cases c <;> simp [State.bad, err]
  exact exec_stick_idle ticks fault idle (by rw [bad]; exact seqBody_restarts _ step)

/-- Settles O40: the attempt is counted and the time taken before the requests, which a busy channel ignores. -/
theorem stickStep0 : Obligations.StickStep0 := by
  intro s u ticks fault step ready
  have body idle bad :=
    (seqBody_at (s := { u with resp := s.resp }) step idle bad).trans (seqStep0_settled ready)
  refine ⟨_, (exec_stick_of_ticks s u ticks fault).trans (stickStep_done (body _ _)), rfl, rfl,
    fun c idle => ?_, fun c busy => ?_, rfl, fault, rfl, rfl⟩
  · rw [State.chan_respond, State.chan_setStep, State.chan_askBoth]
    exact Channel.asked_idle idle
  · rw [State.chan_respond, State.chan_setStep, State.chan_askBoth]
    exact Channel.asked_busy busy

/-- Settles O41: the write-back of whatever `LastValue` answers. -/
theorem stickStep1 : Obligations.StickStep1 := by
  intro s u ticks fault step good
  obtain ⟨v, n, values, valid, drawn⟩ := lastValues_spec { u with resp := s.resp }
  have stick := exec_stick_good ticks fault (fun c => ⟨(good c).1, (good c).2.2⟩) step
    (seqStep1_settled (s := { u with resp := s.resp }) (fun c _ => (good c).2.1) values)
  refine ⟨_, stick, rfl, rfl, fun c => ⟨v.get c, valid c, ?_⟩, rfl, fault, rfl, drawn⟩
  rw [State.chan_respond, State.chan_setStep, State.chan_askBoth, ← maskStatus_eq]
  cases c <;> exact Channel.asked_idle (good _).1

/-- Settles O42: both requests are accepted. -/
theorem stickStep2 : Obligations.StickStep2 := by
  intro s u ticks fault step good
  have stick := exec_stick_good ticks fault (fun c => ⟨(good c).1, (good c).2.2⟩) step
    (seqStep2_settled fun c _ => (good c).2.1)
  refine ⟨_, stick, rfl, rfl, fun c => ?_, rfl, fault, rfl, rfl⟩
  rw [State.chan_respond, State.chan_setStep, State.chan_askBoth]
  cases c <;> exact Channel.asked_idle (good _).1

/-- Settles O44: both requests are accepted. -/
theorem stickStep4 : Obligations.StickStep4 := by
  intro s u ticks fault step good
  have stick := exec_stick_good ticks fault (fun c => ⟨(good c).1, (good c).2.2⟩) step
    (seqStep4_settled fun c _ => (good c).2.1)
  refine ⟨_, stick, rfl, rfl, fun c => ?_, rfl, fault, rfl, rfl⟩
  rw [State.chan_respond, State.chan_setStep, State.chan_askBoth]
  exact Channel.asked_idle (good c).1

/-- Settles O45: what `LastValue` answers is stored, and no request made. -/
theorem stickStep5 : Obligations.StickStep5 := by
  intro s u ticks fault step good
  obtain ⟨v, n, values, valid, drawn⟩ := lastValues_spec { u with resp := s.resp }
  exact ⟨v, _, exec_stick_good ticks fault good step (seqStep5_stores values), rfl, valid, rfl, fun _ => rfl,
    rfl, fault, rfl, drawn⟩

/-- Is either channel of the two answers busy? Bit 3 of either (R224). -/
theorem busy_or_eq (v : PerChan (BitVec 24)) :
    (busy v.ch0 || busy v.ch1) = true ↔ ∃ c, (v.get c).getLsbD 3 = true := by
  rw [busy_eq, busy_eq, Bool.or_eq_true]
  refine ⟨fun h => h.elim (fun h => ⟨.ch0, h⟩) fun h => ⟨.ch1, h⟩, fun ⟨c, h⟩ => ?_⟩
  cases c with
  | ch0 => exact .inl h
  | ch1 => exact .inr h

/-- Settles O43: the first poll and a busy answer make the request, and an answer not busy does not. -/
theorem stickStep3 : Obligations.StickStep3 := by
  intro s u ticks fault step good
  obtain ⟨v, n, values, valid, drawn⟩ := lastValues_spec { u with resp := s.resp }
  have asked : ∀ c, (u.chan c).asked Config.cmdReadKind Config.regCmd 0 =
      requested (u.chan c) (.read .read8) Config.regCmd (u.chan c).te.wval :=
    fun c => Channel.asked_idle (good c).1
  have stays : Response.u3 (seqStepCode u.sq.step) = .u3 3 := by rw [step]; rfl
  refine ⟨v, valid, fun ready ask => ?_, fun poll notBusy => ?_⟩
  · cases poll : u.sq.poll with
    | false =>
      have stick := exec_stick_good ticks fault good step (seqStep3_first (fun c _ => ready c) poll)
      refine ⟨_, stick, congrArg some stays, rfl, fun c => ?_, rfl, fault, rfl, fun _ => rfl⟩
      rw [State.chan_respond, State.chan_setPoll, State.chan_askBoth]
      cases c <;> exact asked _
    | true =>
      have busy := (busy_or_eq v).2 (ask.resolve_left (by simp [poll]))
      have stick := exec_stick_good ticks fault good step
        (seqStep3_again (s := { u with resp := s.resp }) (fun c _ => ready c) poll values busy)
      refine ⟨_, stick, congrArg some stays, ?_, fun c => ?_, rfl, fault, rfl,
        fun h => drawn (h.resolve_left (by simp))⟩
      · rw [← poll]; rfl
      · rw [State.chan_respond, State.chan_askBoth]
        cases c <;> exact asked _
  · have none : (busy v.ch0 || busy v.ch1) = false := by
      rw [← Bool.not_eq_true, busy_or_eq]
      rintro ⟨c, hc⟩
      exact Bool.false_ne_true ((notBusy c).symm.trans hc)
    have stick := exec_stick_good ticks fault good step (seqStep3_over poll values none)
    exact ⟨_, stick, rfl, rfl, rfl, rfl, fault, rfl, drawn⟩

end Sys2Proof.Machine

namespace Sys2Proof.Machine

/-! ## SSETUP (R240 to R242) -/

/-- Both channels at rest: behind the guards SSETUP recovers both and starts the first try. -/
theorem exec_ssetup_atRest {s : State} (h : ∀ c, (s.chan c).te.st = .idle ∧ (s.chan c).be.mode = .idle) :
    exec .ssetup s = .next { s with
      chans :=
        { ch0 := { s.chan .ch0 with ld := ((s.chan .ch0).ld.recover .ch0).2 }
          ch1 := { s.chan .ch1 with ld := ((s.chan .ch1).ld.recover .ch1).2 } }
      sq := { s.sq with sactive := true, stries := 1 }
      resp := none } := by
  simp only [exec, execSsetup, setupBegin, guardOwner_eq, guardReady_eq, h, if_true, Ran.bind_done]
  rfl

/-- Settles O53: the guards pass, and BRECOVER leaves its channel's lines the same way. -/
theorem setupBegins : Obligations.SetupBegins := by
  intro s h
  refine ⟨_, exec_ssetup_atRest h, rfl, rfl, fun c => ?_, rfl, rfl, rfl, rfl⟩
  obtain ⟨sda, scl⟩ := (s.chan c).ld.recover_released c
  have recovered : ∀ b, exec (.brecover c) s = .next b →
      b.chan c = { s.chan c with ld := ((s.chan c).ld.recover c).2 } := by
    intro b e
    rw [exec_recover_ok c _ s (.inl rfl) (h c).1 (h c).2] at e
    cases e
    rw [State.chan_respond, State.chan_setLines]
  cases c <;> exact ⟨sda, scl, rfl, rfl, fun b e => (recovered b e).symm⟩

theorem tick_resp (c : Chan) (s : State) : (tick c s).Ends fun t => t.resp = s.resp := by
  cases e : (s.chan c).tickBody c with
  | ok y => rw [tick_ok c s e]; rfl
  | error f => rw [tick_error c s e]; rfl

/-- A STICK that completes ends with the script's step, and before it responds the last response stands. -/
theorem seqTick_done {s t : State} {n : SeqStep} (h : seqTick s = .done n t) :
    n = t.sq.step ∧ t.resp = s.resp := by
  obtain ⟨b0, u, e0, h⟩ := Ran.bind_eq_done h
  obtain ⟨b1, v, e1, h⟩ := Ran.bind_eq_done h
  obtain ⟨⟨⟩, w, e, h⟩ := Ran.bind_eq_done h
  cases h
  have first := tick_resp .ch0 s
  have second := tick_resp .ch1 u
  have body := seqBody_quiet (!b0 && !b1) v.bad v
  rw [e0] at first
  rw [e1] at second
  rw [e] at body
  exact ⟨rfl, body.resp.trans (second.trans first)⟩

/-- The STICK behind a response without a fault: it completed, in the state before the response. -/
theorem seqTick_of_exec_stick {s u : State} (h : exec .stick s = .next u) (hf : u.fault = none) :
    seqTick s = .done u.sq.step { u with resp := s.resp } := by
  rw [exec, execStick] at h
  cases e : seqTick s with
  | raised f t => rw [e] at h; cases h; cases hf
  | done n t =>
    obtain ⟨rfl, resp⟩ := seqTick_done e
    rw [e] at h
    cases h
    rw [← resp]
    rfl

theorem State.setupDone_iff (s : State) : s.setupDone = true ↔ s.sq.err = false ∨ s.sq.stries = 10 := by
  rw [State.setupDone, Bool.or_eq_true, Bool.not_eq_true', decide_eq_true_eq]
  rfl

/-- Settles O54: inside SSETUP a step is such a STICK, and what follows it depends on the step, the error and the
tries it leaves. -/
theorem setupGoesOnAndEnds : Obligations.SetupGoesOnAndEnds := by
  intro s u fault active stick fault'
  have ended := State.setupDone_iff { u with resp := s.resp }
  rw [step_setup fault active, setupAdvance, seqTick_of_exec_stick stick fault']
  refine ⟨fun away => congrArg _ (if_pos away), fun home last => ?_, fun home bad more => ?_⟩
  · exact congrArg _ ((if_neg (not_not.2 home)).trans (if_pos (ended.2 last)))
  · have again : ¬ State.setupDone { u with resp := s.resp } = true := by
      rw [ended]
      exact not_or.2 ⟨by rw [bad]; nofun, more⟩
    exact congrArg _ ((if_neg (not_not.2 home)).trans (if_neg again))

end Sys2Proof.Machine

namespace Sys2Proof.Machine

/-! ## The sequencer's queries (R231 to R236, R243) -/

/-- `sext_24` reads two's complement (00_scope.md R11). -/
theorem sext24_eq (v : BitVec 24) : sext24 v = v.toInt := by
  rw [sext24, BitVec.toInt_eq_toNat_cond]
  split <;> split <;> omega

/-- Settles O48: the stored reading converted, or a draw. -/
theorem srdpresResponds : Obligations.SrdpresResponds := by
  refine fun c s => ⟨decode_rowWord (op := 0x19) rfl, fun hv => ?_, fun hv => ?_⟩
  · simp only [exec, execSrdpres, hv, sext24_eq]
    rfl
  · simp only [exec, execSrdpres, hv]
    rfl

/-- Settles O49: SRDSEC is a `raise` and nothing else. -/
theorem srdsecIsUnmodelled : Obligations.SrdsecIsUnmodelled :=
  fun _ _ => ⟨decode_rowWord (op := 0x1A) rfl, rfl⟩

/-- The word of a command that uses no field is its row's with channel bit 0. -/
theorem decode_bareWord {op : BitVec 5} {i : Instr} (h : encode i = bareWord op) :
    decode (rowWord op.toNat .ch0) = some i :=
  decode_rowWord (c := .ch0) h

/-- Settles O50: the words are the commands' own, and the fields are read as they are. -/
theorem sequencerQueriesRespond : Obligations.SequencerQueriesRespond :=
  fun _ => ⟨decode_bareWord (op := 0x1B) rfl, decode_bareWord (op := 0x1E) rfl, decode_bareWord (op := 0x17) rfl,
    rfl, rfl, rfl⟩

/-- Settles O52: the word is the command's own, and the counters are read as they are. -/
theorem sstatsResponds : Obligations.SstatsResponds :=
  fun _ => ⟨decode_bareWord (op := 0x1D) rfl, rfl⟩

/-- Settles O51: the two tests of STIMINGS in each case. -/
theorem stimingsResponds : Obligations.StimingsResponds := by
  refine fun s => ⟨decode_bareWord (op := 0x1C) rfl, fun ha hb => ?_, fun hb ha => ?_, fun ha hb => ?_⟩
  · have first : (!(s.chan .ch1).te.tvalid || decide ((s.chan .ch1).te.tmax ≤ (s.chan .ch0).te.tmax)) = true := by
      simpa [BitVec.le_def] using hb
    simp only [exec, execStimings, ha, first]
    rfl
  · have second : ((s.chan .ch0).te.tvalid &&
        (!(s.chan .ch1).te.tvalid || decide ((s.chan .ch1).te.tmax ≤ (s.chan .ch0).te.tmax))) = false := by
      obtain h | h := ha
      · rw [h]; rfl
      · simp [hb, BitVec.le_def, h]
    simp only [exec, execStimings, second]
    simp only [hb, Bool.not_true, Bool.and_false]
    rfl
  · simp only [exec, execStimings, ha, hb]
    rfl

end Sys2Proof.Machine

namespace Sys2Proof

/-! ## Illegal words (30_encoding.md R95, R96) -/

/-- Every command's word matches a row of the opcode table (R94). -/
theorem encode_matches_row (i : Instr) : Laws.OpcodeRow.Statement i := by
  cases i with
  | bstart c => exact Laws.OpcodeRow.bstart c
  | bstop c => exact Laws.OpcodeRow.bstop c
  | bwrite c v => exact Laws.OpcodeRow.bwrite c v
  | bread c a => exact Laws.OpcodeRow.bread c a
  | brecover c => exact Laws.OpcodeRow.brecover c
  | bready c => exact Laws.OpcodeRow.bready c
  | treqwr c w reg value => exact Laws.OpcodeRow.treqwr c w reg value
  | treqrd c w reg => exact Laws.OpcodeRow.treqrd c w reg
  | ttick c => exact Laws.OpcodeRow.ttick c
  | tvalue c => exact Laws.OpcodeRow.tvalue c
  | tack c => exact Laws.OpcodeRow.tack c
  | terror c => exact Laws.OpcodeRow.terror c
  | trecover c => exact Laws.OpcodeRow.trecover c
  | ttimings c => exact Laws.OpcodeRow.ttimings c
  | trsttim c => exact Laws.OpcodeRow.trsttim c
  | ssetok => exact Laws.OpcodeRow.ssetok
  | stick => exact Laws.OpcodeRow.stick
  | srdpres c => exact Laws.OpcodeRow.srdpres c
  | srdsec c => exact Laws.OpcodeRow.srdsec c
  | siserr => exact Laws.OpcodeRow.siserr
  | stimings => exact Laws.OpcodeRow.stimings
  | sstats => exact Laws.OpcodeRow.sstats
  | sdur => exact Laws.OpcodeRow.sdur
  | ssetup => exact Laws.OpcodeRow.ssetup

/-- A row of the opcode table as the decoder reads it: the match is the row's OP alone, and the mask is OP and the
bits that are not free in the row (R94, R96). -/
def rowFits (r : Word × Word) : Bool :=
  freeBits (opField r.1) = some (~~~r.2) && opField r.2 = BitVec.allOnes 5 && r.1 &&& 0x07FFFFFF = 0

theorem opcodeRows_fit : opcodeRows.all rowFits = true := by decide

/-- A row's OP has a command, whatever the other fields hold. -/
theorem commandOf_of_freeBits {op : BitVec 5} {fb : Word} (h : freeBits op = some fb) (ch : BitVec 1)
    (w : BitVec 2) (reg : Byte) (imm : BitVec 16) : ∃ i, commandOf op ch w reg imm = some i := by
  unfold freeBits at h
  split at h <;> cases h
  all_goals exact ⟨_, by simp only [commandOf, ‹op.toNat = _›]; rfl⟩

/-- A word that matches a row decodes. -/
theorem decode_of_matches_row {w : Word} {r : Word × Word} (hr : r ∈ opcodeRows) (h : w &&& r.2 = r.1) :
    ∃ i, decode w = some i := by
  have fits := List.all_eq_true.1 opcodeRows_fit r hr
  simp only [rowFits, Bool.and_eq_true, decide_eq_true_eq] at fits
  obtain ⟨⟨free, opMask⟩, below⟩ := fits
  have op : opField w = opField r.1 := by
    rw [← h, opField, opField, BitVec.extractLsb'_and]
    exact BitVec.and_allOnes.symm.trans (congrArg (_ &&& ·) opMask.symm)
  have fixed : w &&& ~~~(~~~r.2) &&& 0x07FFFFFF = 0 := by rw [BitVec.not_not, h, below]
  obtain ⟨i, hi⟩ := commandOf_of_freeBits free (chField w) (widthField w) (regField w) (immField w)
  rw [← op] at free hi
  exact ⟨i, decode_eq_some_iff.2 ⟨_, free, (fixedBits_eq_zero_iff _ w).1 fixed, hi⟩⟩

/-- A word is illegal exactly when no row of the opcode table matches it (R95, R96). -/
theorem decode_eq_none_iff (w : Word) : decode w = none ↔ ∀ r ∈ opcodeRows, w &&& r.2 ≠ r.1 := by
  constructor
  · intro none r hr h
    obtain ⟨i, hi⟩ := decode_of_matches_row hr h
    cases none.symm.trans hi
  · intro unmatched
    cases e : decode w with
    | none => rfl
    | some i =>
      obtain ⟨r, hr, h⟩ := encode_matches_row i
      rw [encodeOfDecode w i e] at h
      exact absurd h (unmatched r hr)

namespace Machine

theorem runWord_illegal {w : Word} (h : decode w = none) (s : State) :
    runWord w s = .next (s.raise .illegalCommand) := by
  rw [runWord, h]

end Machine

/-- Settles O4: the rows' masks are the decoder's tests, every command's word matches a row, and the step fetches
the word and raises. -/
theorem illegalWordFaults : Obligations.IllegalWordFaults := by
  refine ⟨decode_eq_none_iff, fun s w rest hf hs hc unmatched => ?_⟩
  rw [Machine.step_fetched hf hs hc, Machine.runWord_illegal ((decode_eq_none_iff w).2 unmatched)]
  rfl

end Sys2Proof

namespace Sys2Proof.Machine

/-! ## A step without a command to run (60_exceptions.md R270, R290) -/

/-- Settles O6: the step looks at the fault first. -/
theorem faultedMachineStops : Obligations.FaultedMachineStops := by
  intro s f hf
  rw [step, hf]

/-- Settles O7: no fault, no SSETUP and nothing to fetch. -/
theorem waitsForTheHost : Obligations.WaitsForTheHost := by
  intro s hf hs hc
  simp [step, hf, hs, State.fetch_nil s hc]

/-! ## The guards stop a command before it changes a field (60_exceptions.md R272 to R274) -/

section Guarded
variable {α : Type} {c : Chan} {s : State} {g : α → Response} {k : Unit → State → Ran α}

/-- What is behind the ownership guard does not run during a transaction (40_bit_engine.md R139). -/
theorem guarded_owned (hs : (s.chan c).te.st ≠ .idle) :
    ((guardOwner c s).bind k).outcome g = .next (s.raise .channelOwned) := by
  rw [guardOwner_eq, if_neg hs]
  rfl

/-- What is behind both guards does not run while a host byte is unfinished. -/
theorem guarded_midByte (hs : (s.chan c).te.st = .idle) (hm : (s.chan c).be.mode ≠ .idle) :
    ((guardOwner c s).bind fun _ s => (guardReady c s).bind k).outcome g = .next (s.raise .bitEngineBusy) := by
  rw [guardOwner_eq, if_pos hs, Ran.bind_done, guardReady_eq, if_neg hm]
  rfl

/-- A byte operation that finds the other one mid-byte raises. -/
theorem guarded_conflict {op : Channel → Except Fault Channel} {f : Fault} (hs : (s.chan c).te.st = .idle)
    (e : op (s.chan c) = .error f) :
    ((guardOwner c s).bind fun _ s => (s.putChan c (op (s.chan c))).bind k).outcome g = .next (s.raise f) := by
  rw [guardOwner_eq, if_pos hs, Ran.bind_done, e]
  rfl

end Guarded

/-- Settles O14: each listed command is behind the ownership guard, SSETUP behind those of both channels, and
BREADY behind none. -/
theorem channelOwnedFault : Obligations.ChannelOwnedFault := by
  refine fun c s hs => ⟨?_, _, rfl⟩
  rintro i (rfl | rfl | ⟨v, rfl⟩ | ⟨a, rfl⟩ | rfl | rfl | rfl)
  · exact guarded_owned hs
  · exact guarded_owned hs
  · exact guarded_owned hs
  · exact guarded_owned hs
  · exact guarded_owned hs
  · exact guarded_owned hs
  · exact exec_ssetup_owned hs

theorem Channel.writeByte_conflict {x : Channel} (hm : x.be.mode = .reading) (c : Chan) (v : Byte) :
    x.writeByte c v = .error .byteOpConflict := by
  simp only [Channel.writeByte, hm]

theorem Channel.readByte_conflict {x : Channel} (hm : x.be.mode = .writing) (c : Chan) (a : Bool) :
    x.readByte c a = .error .byteOpConflict := by
  simp only [Channel.readByte, hm]

/-- Settles O16: past the guard, the byte operation finds the other one mid-byte. -/
theorem byteOpConflictFault : Obligations.ByteOpConflictFault := by
  refine fun c s hs => ⟨fun hm v => ?_, fun hm a => ?_⟩
  · exact guarded_conflict (op := fun x => x.writeByte c v) hs (Channel.writeByte_conflict hm c v)
  · exact guarded_conflict (op := fun x => x.readByte c a) hs (Channel.readByte_conflict hm c a)

/-! ## The error kind of a request (60_exceptions.md R262, R263, R280) -/

section Verdict
variable {x : Channel} {k : Option Kind}

theorem requestError_busy (hs : x.te.st ≠ .idle) : requestError (x.judgeRequest k) = .busBusy := by
  simp only [Channel.judgeRequest, if_pos hs, requestError]

/-- On an idle engine only an unsupported width is an error, whether the request is accepted or faults. -/
theorem requestError_idle (hs : x.te.st = .idle) :
    requestError (x.judgeRequest k) = if k.isSome then .none else .invalidWidth := by
  simp only [Channel.judgeRequest, if_neg (not_not.2 hs)]
  cases k with
  | none => rfl
  | some k =>
    dsimp only
    split <;> rfl

end Verdict

/-- Settles O60: the engine is judged before the width, and the width codes of each kind are known. -/
theorem requestErrorPriority : Obligations.RequestErrorPriority := by
  intro c w reg v s
  have write : errorKind (.treqwr c w reg v) s = requestError ((s.chan c).judgeRequest (writeKind w)) := rfl
  have read : errorKind (.treqrd c w reg) s = requestError ((s.chan c).judgeRequest (readKind w)) := rfl
  rw [write, read]
  refine ⟨fun hs => ⟨requestError_busy hs, requestError_busy hs⟩, fun hs => ?_⟩
  rw [requestError_idle hs, requestError_idle hs, writeKind_isSome, readKind_isSome]
  refine ⟨fun hw => ?_, fun hw => ?_, fun hw => ?_, fun hw => ?_⟩
  · simp [Nat.not_lt.2 hw]
  · simp [hw]
  · simp [hw]
  · simp [hw]

/-! ## SSETUP's internal STICKs do not fault (60_exceptions.md R277) -/

/-- With every channel coherent and no host byte unfinished, a STICK completes without a fault. -/
theorem seqTick_completes {s : State} (h : ∀ c, (s.chan c).Settled) :
    ∃ n t, seqTick s = .done n t ∧ t.fault = s.fault := by
  obtain ⟨u, -, fault, ticked, e⟩ := seqTick_coherent fun c => (h c).1
  have settled : ∀ c, (u.chan c).Settled := by
    intro c
    obtain ⟨y, d, body, hu⟩ := ticked c
    rw [hu]
    exact (h c).scripted (.ticked d body)
  obtain ⟨t, body⟩ := seqBody_completes (fun c => (settled c).2) ((u.chan .ch0).free && (u.chan .ch1).free) u.bad
  have quiet := seqBody_quiet ((u.chan .ch0).free && (u.chan .ch1).free) u.bad u
  rw [body] at e quiet
  exact ⟨_, t, e, quiet.fault.trans fault⟩

/-- What follows an internal STICK records no fault of its own (42_acquisition_sequencer.md R240). -/
theorem setupAdvance_fault {s t : State} {n : SeqStep} (e : seqTick s = .done n t) :
    (setupAdvance s).fault = t.fault := by
  rw [setupAdvance, e]
  dsimp only
  split
  · rfl
  · split <;> rfl

/-- Settles O55: inside SSETUP the invariant leaves no host byte unfinished. -/
theorem setupNeverFaultsInside : Obligations.SetupNeverFaultsInside := by
  intro s inv fault active
  obtain ⟨n, t, e, kept⟩ := seqTick_completes fun c => ⟨(inv.channels c).coherent, inv.held active c⟩
  exact ⟨_, step_setup fault active, (setupAdvance_fault e).trans (kept.trans fault)⟩

end Sys2Proof.Machine

namespace Sys2Proof.Machine

/-! ## A host byte unfinished: SSETUP, and the step of a STICK (60_exceptions.md R273, R276) -/

/-- SSETUP stops at its first guard that finds a host byte unfinished. -/
theorem exec_ssetup_midByte {c : Chan} {s : State} (hs : ∀ d, (s.chan d).te.st = .idle)
    (hm : (s.chan c).be.mode ≠ .idle) : exec .ssetup s = .next (s.raise .bitEngineBusy) := by
  have stopped : setupBegin s = .raised .bitEngineBusy s := by
    simp only [setupBegin, guardOwner_eq, guardReady_eq, if_pos (hs _), Ran.bind_done]
    by_cases h0 : (s.chan .ch0).be.mode = .idle
    · have h1 : (s.chan .ch1).be.mode ≠ .idle := by
        cases c with
        | ch0 => exact absurd h0 hm
        | ch1 => exact hm
      rw [if_pos h0, Ran.bind_done, if_neg h1, Ran.bind_raised]
    · rw [if_neg h0, Ran.bind_raised]
  simp only [exec, execSsetup, stopped]

/-- The pseudocode raises BitEngineBusy, and the sequencer's fields are q then (log 14). -/
def Ran.RaisesBusy {α : Type} (r : Ran α) (q : Sequencer) : Prop := ∃ t, r = .raised .bitEngineBusy t ∧ t.sq = q

theorem Ran.RaisesBusy.bind {α β : Type} {r : Ran α} {q : Sequencer} (h : r.RaisesBusy q) (k : α → State → Ran β) :
    (r.bind k).RaisesBusy q := by
  obtain ⟨t, rfl, hq⟩ := h
  exact ⟨t, rfl, hq⟩

section MidByte
variable {s u : State} (h : ∃ c, (s.chan c).te.st = .idle ∧ (s.chan c).be.mode ≠ .idle)
include h

/-- Step 0 has counted the attempt and taken the time (42_acquisition_sequencer.md R221). -/
theorem seqStep0_midByte : (seqStep0 s).RaisesBusy s.cycleBegun.sq := by
  rw [seqStep0_eq]
  exact Ran.RaisesBusy.bind (bothRead_raises _ _ s.cycleBegun h) _

theorem seqStep1_midByte : (seqStep1 true false s).RaisesBusy s.sq :=
  Ran.RaisesBusy.bind (bothWrite_raises _ _ _ s.lastValues.2 h) _

theorem seqStep2_midByte : (seqStep2 true false s).RaisesBusy s.sq :=
  Ran.RaisesBusy.bind (bothWrite_raises _ _ _ s h) _

/-- The first poll of step 3 (R224). -/
theorem seqStep3_midByte_first (hp : s.sq.poll = false) : (seqStep3 true false s).RaisesBusy s.sq := by
  simp only [seqStep3, hp]
  exact Ran.RaisesBusy.bind (bothRead_raises _ _ s h) _

/-- A further poll of step 3, after a busy answer. -/
theorem seqStep3_midByte_again {v : PerChan (BitVec 24)} {n : Nat} (hp : s.sq.poll = true)
    (e : s.lastValues = (v, { s with draws := n })) (hb : (busy v.ch0 || busy v.ch1) = true) :
    (seqStep3 true false s).RaisesBusy s.sq := by
  simp only [seqStep3, hp, e, hb]
  exact bothRead_raises _ _ { s with draws := n } h

theorem seqStep4_midByte : (seqStep4 true false s).RaisesBusy s.sq :=
  Ran.RaisesBusy.bind (bothRead_raises _ _ s h) _

/-- With both channels idle and error-free, steps 1 to 4 raise at their requests; step 3 makes one where no poll is
outstanding or a valid answer is busy. -/
theorem seqStepAt_midByte {n : SeqStep} (hn : n = .s1 ∨ n = .s2 ∨ n = .s4 ∨ n = .s3 ∧ (s.sq.poll = false ∨
    ∃ c, (s.chan c).te.vvalid = true ∧ (s.chan c).te.val.getLsbD 3 = true)) :
    (seqStepAt n true false s).RaisesBusy s.sq := by
  obtain rfl | rfl | rfl | ⟨rfl, ask⟩ := hn
  · exact seqStep1_midByte h
  · exact seqStep2_midByte h
  · exact seqStep4_midByte h
  · cases hp : s.sq.poll with
    | false => exact seqStep3_midByte_first h hp
    | true =>
      obtain ⟨c, valid, bit⟩ := ask.resolve_left (by rw [hp]; nofun)
      obtain ⟨v, n, values, known, -⟩ := lastValues_spec s
      exact seqStep3_midByte_again h hp values ((busy_or_eq v).2 ⟨c, by rw [known c valid, bit]⟩)

end MidByte

/-- The step of a STICK on the state u its ticks leave, both channels idle and error-free. -/
theorem seqBody_good {u : State} {r : Option Response} {n : SeqStep}
    (good : ∀ c, (u.chan c).te.st = .idle ∧ (u.chan c).te.err = false) (step : u.sq.step = n) :
    seqBody ((u.chan .ch0).free && (u.chan .ch1).free) u.bad { u with resp := r } =
      seqStepAt n true false { u with resp := r } := by
  have idle : ((u.chan .ch0).free && (u.chan .ch1).free) = true := by simp [Channel.free, good]
  have noError : u.bad = false := by simp [State.bad, good]
  rw [idle, noError]
  exact seqBody_at (s := { u with resp := r }) step true false

/-- A step that raises ends the STICK in the faulted state, the sequencer's fields as it left them (log 14). -/
theorem stickStep_raises {u : State} {r : Option Response} {m : Ran Unit} {q : Sequencer}
    (body : seqBody ((u.chan .ch0).free && (u.chan .ch1).free) u.bad { u with resp := r } = m) (h : m.RaisesBusy q) :
    ∃ t, stickStep r u = .next t ∧ t.fault = some .bitEngineBusy ∧ t.resp = none ∧ t.sq = q := by
  obtain ⟨t, rfl, hq⟩ := h
  exact ⟨t.raise .bitEngineBusy, by rw [stickStep, body]; rfl, rfl, rfl, hq⟩

/-- A STICK whose step makes a request raises, in step 0 with the attempt counted: it does not wait (R220, R221). -/
theorem stickStep_midByte {u : State} {r : Option Response}
    (midByte : ∃ c, (u.chan c).te.st = .idle ∧ (u.chan c).be.mode ≠ .idle)
    (h : u.sq.step = .s0 ∨ (∀ c, (u.chan c).te.st = .idle ∧ (u.chan c).te.err = false) ∧
      (u.sq.step = .s1 ∨ u.sq.step = .s2 ∨ u.sq.step = .s4 ∨ u.sq.step = .s3 ∧ (u.sq.poll = false ∨
        ∃ c, (u.chan c).te.vvalid = true ∧ (u.chan c).te.val.getLsbD 3 = true))) :
    ∃ t, stickStep r u = .next t ∧ t.fault = some .bitEngineBusy ∧ t.resp = none ∧ t.sq.step = u.sq.step ∧
      t.sq.attempts = if u.sq.step = .s0 then u.sq.attempts + 1 else u.sq.attempts := by
  obtain step | ⟨good, asks⟩ := h
  · obtain ⟨t, e, fault, resp, sq⟩ := stickStep_raises (seqBody_at (s := { u with resp := r }) step _ _)
      (seqStep0_midByte (s := { u with resp := r }) midByte)
    exact ⟨t, e, fault, resp, by rw [sq]; rfl, by rw [sq, if_pos step]; rfl⟩
  · obtain ⟨t, e, fault, resp, sq⟩ := stickStep_raises (seqBody_good good rfl)
      (seqStepAt_midByte (s := { u with resp := r }) midByte asks)
    have away : u.sq.step ≠ .s0 := by
      intro home
      rw [home] at asks
      simp at asks
    exact ⟨t, e, fault, resp, by rw [sq], by rw [sq, if_neg away]⟩

/-- A STICK in step 3 with a poll outstanding raises after a busy answer, and else ends its poll (R224). -/
theorem stickStep_polled {u : State} {r : Option Response}
    (midByte : ∃ c, (u.chan c).te.st = .idle ∧ (u.chan c).be.mode ≠ .idle)
    (good : ∀ c, (u.chan c).te.st = .idle ∧ (u.chan c).te.err = false) (step : u.sq.step = .s3)
    (poll : u.sq.poll = true) :
    ∃ t, stickStep r u = .next t ∧
      (t.fault = some .bitEngineBusy ∧ t.resp = none ∧ t.sq.step = .s3 ∨
        t.fault = u.fault ∧ t.resp = some (.u3 4) ∧ t.sq.step = .s4) := by
  obtain ⟨v, n, values, -⟩ := lastValues_spec { u with resp := r }
  cases answer : busy v.ch0 || busy v.ch1 with
  | true =>
    obtain ⟨t, e, fault, resp, sq⟩ := stickStep_raises (seqBody_good good step)
      (seqStep3_midByte_again (s := { u with resp := r }) midByte poll values answer)
    exact ⟨t, e, .inl ⟨fault, resp, by rw [sq]; exact step⟩⟩
  | false =>
    have body := seqStep3_over (s := { u with resp := r }) poll values answer
    exact ⟨_, stickStep_done ((seqBody_good good step).trans body), .inr ⟨rfl, rfl, rfl⟩⟩

/-- Settles O15: the commands of one channel and SSETUP stop at a guard or at the request's check; a STICK whose step
makes a request raises there, and one that judges a draw may end its poll instead. -/
theorem bitEngineBusyFault : Obligations.BitEngineBusyFault := by
  refine ⟨fun c s hs hm => ?_, fun s hs ⟨c, hm⟩ => exec_ssetup_midByte hs hm, fun s u coherent ticks midByte => ?_⟩
  · rintro i (rfl | rfl | rfl | rfl | ⟨w, reg, v, hw, rfl⟩ | ⟨w, reg, hw, rfl⟩)
    · exact guarded_midByte hs hm
    · exact guarded_midByte hs hm
    · exact guarded_midByte hs hm
    · exact guarded_midByte hs hm
    · rw [exec, execTreqwr, request_midByte hs hm (by simpa [hw] using writeKind_isSome w)]
      rfl
    · rw [exec, execTreqrd, request_midByte hs hm (by simpa [hw] using readKind_isSome w)]
      rfl
  · obtain ⟨u', ticks', -, -, stick⟩ := exec_stick_coherent s coherent
    cases ticks.symm.trans ticks'
    rw [stick]
    exact ⟨stickStep_midByte midByte, fun good step poll _ => stickStep_polled midByte good step poll⟩

end Sys2Proof.Machine

namespace Sys2Proof.Machine

/-! ## Reset (70_reset_and_hazards.md R300, R305) -/

@[simp] theorem State.chan_reset (c : Chan) : State.reset.chan c = Channel.reset c := by
  cases c with
  | ch0 => rfl
  | ch1 => rfl

theorem Sequencer.reset_rawvalid (c : Chan) : Sequencer.reset.rawvalid.get c = false := by
  cases c with
  | ch0 => rfl
  | ch1 => rfl

theorem Channel.reset_atRest (c : Chan) : (Channel.reset c).atRest = true := rfl

theorem State.reset_cleanLaunch : State.reset.cleanLaunch = true := by
  simp only [State.cleanLaunch, State.chan_reset, Channel.reset_atRest]
  rfl

/-- Settles O9: both channels are `Channel.reset`, and the fields are read off it and `Sequencer.reset`. -/
theorem resetLeaves : Obligations.ResetLeaves := by
  refine ⟨fun c => ?_, rfl, rfl, rfl, rfl, rfl, rfl, rfl, rfl, rfl, rfl, State.reset_cleanLaunch⟩
  rw [State.chan_reset]
  exact ⟨rfl, rfl, rfl, rfl, rfl, rfl, rfl, rfl, rfl, rfl, rfl, Sequencer.reset_rawvalid c⟩

/-- The empty trace leaves both lines released and holds no sample. -/
theorem LineDriver.reset_good (c : Chan) : (Channel.reset c).ld.Good where
  traced l := by
    cases l with
    | sda => rfl
    | scl => rfl
  sampled before l b rest h := by
    have empty : (Channel.reset c).ld.trace = [] := rfl
    simp [empty] at h

/-- No byte is read, no error or value is recorded, and the maximum is 0 with no sample. -/
theorem Channel.reset_sound (c : Chan) : (Channel.reset c).Sound where
  coherent := Channel.coherent_of_idle rfl
  traced := (LineDriver.reset_good c).traced
  sampled := (LineDriver.reset_good c).sampled
  reading _ := rfl
  erring err := by cases err
  valued valid := by cases valid
  timed := iff_of_true rfl rfl

/-- Settles O10: both channels are sound, and no poll, no try and no SSETUP is under way. -/
theorem invariantAtReset : Obligations.InvariantAtReset where
  channels c := State.chan_reset c ▸ Channel.reset_sound c
  polling poll := by cases poll
  tries := Nat.zero_le _
  held active := by cases active

end Sys2Proof.Machine
